-- ==== Sys2Proof/Word.lean ====
section
/-! DEFINITION. The word types of the H30: bytes, 3-bit sequences and 16-bit quantities (spec/00, Conventions). -/

namespace Sys2Proof

/-- A byte of a host frame or of a segment. -/
abbrev Byte := BitVec 8

/-- A sequence number of DATA segments, taken modulo 8 (R39). -/
abbrev Seq := BitVec 3

/-- A 16-bit quantity: a check, a CRC, an arrival number (R108, R132, R154). -/
abbrev Half := BitVec 16

end Sys2Proof
end

