-- ==== Sys2Proof/Config.lean ====
section
/-! DEFINITION. What the part fixes (R169) and the one free value of the model. -/

namespace Sys2Proof.Config

/-- Pool buffers (R77). -/
abbrev poolBuffers : Nat := 48
/-- Bytes in a buffer, the longest message (R77, R81). -/
abbrev bufferSize : Nat := 64
/-- The most downlink-held buffers (R77). -/
abbrev downlinkLimit : Nat := 32
/-- The most messages in one downlink queue (R84). -/
abbrev queueDepth : Nat := 8
/-- The most messages in the uplink inbox (R108). -/
abbrev uplinkInbox : Nat := 16
/-- The most requests in the request inbox (R162). -/
abbrev requestInbox : Nat := 4
/-- The most open requests (R162). -/
abbrev openRequests : Nat := 8
/-- The notice places of the notice queue (R182). -/
abbrev noticePlaces : Nat := 23
/-- The reply-queue places kept for refusals (R156, R187). -/
abbrev refusalPlaces : Nat := 2
/-- Consecutive BUSY answers that fail a message (R93, R102). -/
abbrev busyLimit : Nat := 16
/-- Where every counter stops (spec/00, Conventions). -/
abbrev counterMax : Nat := 65535
/-- Where notice credits and the overflow marker stop (R184, R186). -/
abbrev creditMax : Nat := 255
/-- The broadcast address (spec/00, Terms). -/
abbrev broadcast : Nat := 31

/-- FREE VALUE (log 5). Where the spec lets two things of one instant come in either order, the `n`-th such choice
puts the second one first when this is true. Nothing is known of it. -/
opaque eitherOrder : Nat → Bool

end Sys2Proof.Config
end

