-- ==== Sys2Proof/Syntax.lean ====
section
/-! DEFINITION. The commands of the H30: one constructor per row of spec/opcode_table.json, with the row's operands. -/

namespace Sys2Proof

/-- A level change on BRX in a receive part (R136): its time in thousandths of a bit time from the slot start, and
whether the line rises. -/
structure Edge where
  time : Nat
  rising : Bool
  deriving DecidableEq, Repr

/-- The commands. A request row carries the tag and the body of the request the executor takes (R165); a byte row
carries the byte taken on RXD (R149); a report row carries the level changes LIF saw (R136 to R142). -/
inductive Instr where
  /-- POWER_ON: power is applied; the strap levels (R16, R148). -/
  | powerOn (rate1 rate0 : Bool)
  /-- PIN_RESET: RESETn is released; the strap levels (R16, R148). -/
  | pinReset (rate1 rate0 : Bool)
  /-- IDENTIFY (R169). -/
  | identify (tag : Byte) (body : List Byte)
  /-- STATUS (R170). -/
  | status (tag : Byte) (body : List Byte)
  /-- CONFIGURE (R171). -/
  | configure (tag : Byte) (body : List Byte)
  /-- READ_CONFIG (R172). -/
  | readConfig (tag : Byte) (body : List Byte)
  /-- COUNTERS (R173). -/
  | counters (tag : Byte) (body : List Byte)
  /-- RESET (R177). -/
  | reset (tag : Byte) (body : List Byte)
  /-- UNKNOWN_REQUEST_KIND (R165). -/
  | unknownRequestKind (kind tag : Byte) (body : List Byte)
  /-- START (R9). -/
  | start (tag : Byte) (body : List Byte)
  /-- STOP (R11). -/
  | stop (tag : Byte) (body : List Byte)
  /-- SCHED_EDIT (R23). -/
  | schedEdit (tag : Byte) (body : List Byte)
  /-- SCHED_READ (R25). -/
  | schedRead (tag : Byte) (body : List Byte)
  /-- SCHED_COMMIT (R26). -/
  | schedCommit (tag : Byte) (body : List Byte)
  /-- ENROLL (R40). -/
  | enroll (tag : Byte) (body : List Byte)
  /-- RETIRE (R43). -/
  | retire (tag : Byte) (body : List Byte)
  /-- STATION_QUERY (R45). -/
  | stationQuery (tag : Byte) (body : List Byte)
  /-- STRANGERS (R56). -/
  | strangers (tag : Byte) (body : List Byte)
  /-- SEND (R81). -/
  | send (tag : Byte) (body : List Byte)
  /-- CANCEL (R98). -/
  | cancel (tag : Byte) (body : List Byte)
  /-- FLUSH (R100). -/
  | flush (tag : Byte) (body : List Byte)
  /-- MSG_STATUS (R101). -/
  | msgStatus (tag : Byte) (body : List Byte)
  /-- FETCH (R124). -/
  | fetch (tag : Byte) (body : List Byte)
  /-- GRANT (R186). -/
  | grant (tag : Byte) (body : List Byte)
  /-- GOOD_FRAME: the second check byte, and the check is good (R155). -/
  | goodFrame (byte : Byte)
  /-- CHECK_ERROR: the second check byte, and the check is bad (R156). -/
  | checkError (byte : Byte)
  /-- LENGTH_ERROR: a length byte outside 2 to 250 (R152). -/
  | lengthError (byte : Byte)
  /-- HUNT_BYTE_DISCARDED: a byte other than the marker in HUNT (R151). -/
  | huntByteDiscarded (byte : Byte)
  /-- GAP_TIMEOUT (R157). -/
  | gapTimeout
  /-- CHARACTER_ERROR (R157). -/
  | characterError
  /-- BREAK (R157). -/
  | breakDetected
  /-- FRAME_SENT (R158). -/
  | frameSent
  /-- FULL_RESET (R180). -/
  | fullReset
  /-- BUS_RESET (R18). -/
  | busReset
  /-- LINK_RESET (R179). -/
  | linkReset
  /-- ATTN_PULSE_EXPIRY (R192). -/
  | attnPulseExpiry
  /-- LISTENING_EXPIRY (R10). -/
  | listeningExpiry
  /-- CARRIER (R10). -/
  | carrier
  /-- SLOT_START (R6). -/
  | slotStart
  /-- TRANSMISSION_COMPLETED (R133). -/
  | transmissionCompleted
  /-- ECHO_MISMATCH: the cell, which of its two samples, and the level read back on BRX (R134). -/
  | echoMismatch (cell : Nat) (secondHalf level : Bool)
  /-- CYCLE_END (R7). -/
  | cycleEnd
  /-- STOP_COMPLETION (R8). -/
  | stopCompletion
  /-- UP_SLOT_REPORT: the level changes LIF has seen since it was last heard in this receive part, up to a time in
  thousandths of a bit time, bit time 152 unless another is given; the report falls where they settle the class (R109, R142;
  log 15). -/
  | upSlotReport (edges : List Edge) (upTo : Nat := 152000)
  /-- ADMIT_SLOT_REPORT: the same in an ADMIT slot (R64, R142; log 15). -/
  | admitSlotReport (edges : List Edge) (upTo : Nat := 152000)
  /-- FRAME_BYTE_TAKEN (R151 to R153). -/
  | frameByteTaken (byte : Byte)
  /-- CHARACTER_START_EDGE: a falling edge on RXD and the sample half a bit time later; high is a glitch (R149). -/
  | characterStartEdge (high : Bool)
  /-- RXD_RETURNS_HIGH (R149). -/
  | rxdReturnsHigh
  /-- RESETN_LOW: how long RESETn has been low, in nanoseconds, 1 µs unless another is given (R16, R161; log 14). -/
  | resetnLow (nanoseconds : Nat := 1000)
  deriving DecidableEq, Repr

end Sys2Proof
end

