-- ==== Sys2Proof/Machine/State.lean ====
section
/-! DEFINITION. The state of the H30, block by block as spec/00 lists them, and the state after power-on. Plain data. -/

namespace Sys2Proof.Machine

/-! ### Cycle Engine (R1) -/

/-- The four states of the engine (spec/01, 1.1). -/
inductive EngineState where
  | stopped | listening | running | halting
  deriving DecidableEq, Repr

/-- A deferred request: its tag, and the flag a LINK reset sets (R1, R19, R21). -/
structure Deferred where
  tag : Byte
  forgotten : Bool
  deriving DecidableEq, Repr

/-- The kind of transmission that completed the streak at the last bus fault (R12). -/
inductive FaultCause where
  | none | echoBeacon | echoData | echoEmpty
  deriving DecidableEq, Repr

/-- The Cycle Engine's items of R1. -/
structure Cye where
  state : EngineState
  cycle : Byte
  slot : Nat
  start : Option Deferred
  stop : Option Deferred
  deadline : Option Nat
  streak : Nat
  cause : FaultCause
  deriving DecidableEq, Repr

/-! ### Schedule Banks (R21, R22) -/

/-- The kinds of schedule entry (R22). -/
inductive SlotKind where
  | idle | down | up | admission
  deriving DecidableEq, Repr

/-- A schedule entry: a kind and an owner address (R22). -/
structure Entry where
  kind : SlotKind
  owner : Nat
  deriving DecidableEq, Repr

/-- A bank: 60 entries and a length N (R21). -/
structure Bank where
  entries : Vector Entry 60
  length : Nat
  deriving DecidableEq, Repr

/-- The Schedule Banks' items of R21. -/
structure Sbk where
  active : Bank
  edit : Bank
  epoch : Byte
  edited : Bool
  commit : Option Deferred
  deriving DecidableEq, Repr

/-! ### Station Table (R38, R39, R55) -/

/-- The class a record expects: ANY, or one of 0 to 15 (R39). -/
inductive StationClass where
  | any
  | is (c : Byte)
  deriving DecidableEq, Repr

/-- Which presence changes are reported (R52). -/
inductive NoticeMode where
  | none | onLoss | onGain | both
  deriving DecidableEq, Repr

/-- The presence of a station (R46). -/
inductive Presence where
  | absent | acquiring | present
  deriving DecidableEq, Repr

/-- The phase of a station's in-flight record (R91). -/
inductive Phase where
  | ready | awaitingAck
  deriving DecidableEq, Repr

/-- The in-flight record of a station queue (R85). -/
structure InFlight where
  handle : Nat
  index : Nat
  seqSent : Option Seq
  retries : Nat
  busy : Nat
  phase : Phase
  started : Bool
  deriving DecidableEq, Repr

/-- A reassembly context: the bytes held so far and the segments they came in (R121). -/
structure Context where
  bytes : List Byte
  segments : Nat
  deriving DecidableEq, Repr

/-- The per-station counters, in the order of R176. -/
inductive StationCounter where
  | cyclesHeard | cyclesMissed | gains | losses | failedAcquisitions
  | joinsAccepted | restarts | joinsRefusedForClass
  | dataSegmentsSent | segmentsResent | segmentsAcknowledged | busyAnswers | unansweredJudgements
  | messagesDelivered | messagesFailed
  | silentUpSlots | lateSegments | damagedSegments | straySegments | staleSegments | misplacedSegments
  | unjudgedDataSegments | segmentsAccepted | duplicates | outOfSequence | busyAnswersGiven | orphanSegments
  | oversizeDiscards | emptyMessages | contextsAbandoned | messagesCompleted
  deriving DecidableEq, Repr

/-- The global counters, in the order of R175 and R194. -/
inductive GlobalCounter where
  | cyclesBegun | listenRefusals | busFaults
  | stationsGained | stationsLost | strangerInsertions
  | admitCollisions | admitLate | admitInvalid | joinsRefusedUnknown
  | delivered | failed | discarded | cancelled | broadcastSends | downlinkLendRefusals | uplinkLendRefusals
  | segmentsFromUnenrolled | inboxFullAnswers | messagesCompleted
  | transmissionsBegun | transmissionsCompleted | echoMismatches | noiseSlots
  | framesReceived | checkErrors | rejectsDropped | lengthErrors | gapTimeouts | characterErrors | breaks
  | huntBytesDiscarded
  | requestsAccepted | inboxFullReplies | inboxFullRepliesDropped
  | repliesSent | noticesSent | noticesDropped | overflowNoticesSent
  deriving DecidableEq, Repr

/-- A station record (R39). -/
structure Station where
  cls : StationClass
  mode : NoticeMode
  hold : Bool
  presence : Presence
  good : Nat
  miss : Nat
  downNext : Seq
  upExpected : Seq
  lastAccepted : Option Seq
  queue : List Nat
  inFlight : Option InFlight
  context : Option Context
  heard : Bool
  busyAnswer : Bool
  counters : Vector Nat 31
  deriving DecidableEq, Repr

/-- Why a join was refused (R55). -/
inductive StrangerReason where
  | unknown | cls
  deriving DecidableEq, Repr

/-- An entry of the stranger set (R55). -/
structure Stranger where
  address : Nat
  cls : Byte
  reason : StrangerReason
  deriving DecidableEq, Repr

/-- The Station Table: the record of address a stands at index a − 1; the stranger set is kept ascending by address
(R38, R55, R56). -/
structure Stt where
  records : Vector (Option Station) 30
  strangers : List Stranger
  deriving DecidableEq, Repr

/-! ### Admission Unit (R63) -/

/-- The admission results (R63). -/
inductive AdmitResult where
  | none | accepted | refusedUnknown | refusedClass | collided
  deriving DecidableEq, Repr

/-- The admission result for the next beacon (R63). -/
structure Adm where
  result : AdmitResult
  echo : Nat
  deriving DecidableEq, Repr

/-! ### Message Pool and Downlink Delivery (R77, R80, R86) -/

/-- The state of a downlink message (R80). -/
inductive MsgState where
  | queued | inFlight
  deriving DecidableEq, Repr

/-- The record of a downlink-held buffer (R80). -/
structure Message where
  handle : Nat
  dest : Nat
  urgent : Bool
  bytes : List Byte
  state : MsgState
  deriving DecidableEq, Repr

/-- The Message Pool: its three counts, the handle counter and the downlink records (R77, R79, R80). -/
structure Mpl where
  free : Nat
  down : Nat
  up : Nat
  handleCounter : Nat
  messages : List Message
  deriving DecidableEq, Repr

/-- The broadcast in-flight record (R86). -/
structure BroadcastInFlight where
  handle : Nat
  index : Nat
  seqSent : Option Seq
  sends : Nat
  started : Bool
  deriving DecidableEq, Repr

/-- Downlink Delivery's own state; the station queues stand in the records (R86). -/
structure Dlv where
  queue : List Nat
  inFlight : Option BroadcastInFlight
  next : Seq
  deriving DecidableEq, Repr

/-! ### Uplink Receiver (R107, R108) -/

/-- A completed uplink message (R108). -/
structure InboxEntry where
  source : Nat
  bytes : List Byte
  cycle : Byte
  arrival : Half
  deriving DecidableEq, Repr

/-- The Uplink Receiver's global state (R107). -/
structure Ulr where
  inbox : List InboxEntry
  arrival : Half
  deriving DecidableEq, Repr

/-! ### Line Interface (R129) -/

/-- The kinds of segment (spec/11, 11.7). -/
inductive SegKind where
  | beacon | data | empty | join
  deriving DecidableEq, Repr

/-- A segment: its header fields and payload; the length field is the payload's length (R196). -/
structure Segment where
  kind : SegKind
  address : BitVec 5
  seq : Seq
  first : Bool
  last : Bool
  ackValid : Bool
  busy : Bool
  ackSeq : Seq
  echo : Byte
  payload : List Byte
  deriving DecidableEq, Repr

/-- The receive classes, GOOD with the segment handed over (R142). -/
inductive RxClass where
  | silent | late | collided | malformed | crcBad
  | good (seg : Segment)
  deriving DecidableEq, Repr

/-- The phases of SEND (R129, R133): LEAD, CELLS at a half of a cell counted from the first preamble cell, and LAG. -/
inductive SendPhase where
  | lead
  | cells (cell : Nat) (secondHalf : Bool)
  | lag
  deriving DecidableEq, Repr

/-- What LIF holds of a receive part once its class is settled: the class, whether any level change was seen, whether it was
settled by the part's closing at bit time 152, the dated beginning of the preamble and the tracked centre in thousandths of
a bit time, and the cells decoded, the lock run's four the first (R129, R136, R142). -/
structure Reception where
  cls : RxClass
  noise : Bool
  atClose : Bool
  dated : Option Int
  centre : Option Nat
  cells : List Bool
  deriving DecidableEq, Repr

/-- What LIF tracks from lock until the class is settled: the dated beginning, the tracked centre, the lock run's fourth
transition in the span of the first cell, and the transitions seen in the present cell's span, oldest first (R136, R138). -/
structure Tracking where
  dated : Int
  centre : Nat
  after : Option Nat
  span : List Edge
  deriving DecidableEq, Repr

/-- The cells of the segment being assembled, every cell decoded so far, latest first (R129). PREAMBLE: how many were decoded
since lock, and all of them with the lock run's four. BODY: how many cells of the header, or of payload and CRC, are left, those
up to the delimiter's last (`lead`), and those after it (R136, R139 to R141). -/
inductive RxStage where
  | preamble (decoded : Nat) (cells : List Bool)
  | header (left : Nat) (lead cells : List Bool)
  | rest (left : Nat) (lead cells : List Bool)
  deriving DecidableEq, Repr

/-- The phases of RECEIVE (R129): WAIT with its candidate run, latest first; PREAMBLE and BODY by the stage; and SETTLED,
with a LATE that is reported at bit time 152 and the lock run's four cells, or with the class reported (R137, R142). -/
inductive RxPhase where
  | wait (run : List Edge)
  | decode (t : Tracking) (stage : RxStage)
  | late (dated : Int) (centre : Nat) (cells : List Bool)
  | settled (r : Reception)
  deriving DecidableEq, Repr

/-- The block a receive part serves (R142). -/
inductive RxSlot where
  | up | admission
  deriving DecidableEq, Repr

/-- The line states of R129 with their phases. SEND holds LIF's own copy of the segment, RECEIVE the segment being
assembled. -/
inductive LineState where
  | idle
  | watch
  | send (seg : Segment) (phase : SendPhase)
  | receive (slot : RxSlot) (phase : RxPhase)
  deriving DecidableEq, Repr

/-- The Line Interface (R129). -/
structure Lif where
  line : LineState
  deriving DecidableEq, Repr

/-! ### Host Link (R148 to R150) -/

/-- The link rates of the strap table (R148). -/
inductive LinkRate where
  | baud115200 | baud230400 | baud460800 | baud921600
  deriving DecidableEq, Repr

/-- The receiver state with its partial frame (R150). -/
inductive FrameRx where
  | hunt
  | length
  | body (len : Nat) (bytes : List Byte) (check : Half)
  | check (len : Nat) (bytes : List Byte) (computed : Half) (high : Option Byte)
  deriving DecidableEq, Repr

/-- The gap timer: stopped, running, or held still during a character (R157). -/
inductive GapTimer where
  | stopped | running | held
  deriving DecidableEq, Repr

/-- The character receiver: waiting for RXD to be high, watching for a falling edge, or in a character (R149). -/
inductive CharRx where
  | waitHigh | ready | inCharacter
  deriving DecidableEq, Repr

/-- The Host Link (R148 to R150). -/
structure Hlk where
  rate : LinkRate
  rx : FrameRx
  gap : GapTimer
  chr : CharRx
  deriving DecidableEq, Repr

/-! ### Request Executor (R162, R171) -/

/-- A request as the Host Link handed it over (R155, R162). -/
structure Request where
  kind : Byte
  tag : Byte
  body : List Byte
  deriving DecidableEq, Repr

/-- The scopes of RESET (R177). -/
inductive Scope where
  | full | bus | link
  deriving DecidableEq, Repr

/-- The reset in hand: its scope, and whether its reply has been sent whole, so that it takes effect next (R177). -/
structure ResetInHand where
  scope : Scope
  replySent : Bool
  deriving DecidableEq, Repr

/-- The ATTN modes (R191, R192). -/
inductive AttnMode where
  | level | pulse
  deriving DecidableEq, Repr

/-- The nine settings (R171). -/
structure Settings where
  busRate : Nat
  guard : Nat
  lockIn : Nat
  lockOut : Nat
  retryLimit : Nat
  repeats : Nat
  faultStreak : Nat
  attnMode : AttnMode
  pulseLength : Nat
  deriving DecidableEq, Repr

/-- The Request Executor (R162). -/
structure Rex where
  inbox : List Request
  openCount : Nat
  resetInHand : Option ResetInHand
  config : Settings
  deriving DecidableEq, Repr

/-! ### Notice Queue and Outbound Arbiter (R182) -/

/-- A host frame without its marker, length and check (spec/11, 11.1). -/
structure Frame where
  kind : Byte
  tag : Byte
  body : List Byte
  deriving DecidableEq, Repr

/-- Outcome results (R97). -/
inductive Result where
  | delivered | failed | discarded | cancelled
  deriving DecidableEq, Repr

/-- Outcome reasons (spec/05, 5.6). -/
inductive Reason where
  | none | noAck | stationBusy | stationLost | retired | flushed
  deriving DecidableEq, Repr

/-- The notices that join the notice queue, with the values of the instant of the offer (R183). -/
inductive Notice where
  | presence (address : Nat) (old new : Presence)
  | joinHeard (address : Nat) (cls : Byte)
  | stranger (address : Nat) (cls : Byte) (reason : StrangerReason)
  | restarted (address : Nat)
  | outcome (handle dest : Nat) (result : Result) (reason : Reason)
  | uplinkReady (count : Nat)
  | busFault (streak : Nat) (cycle : Byte)
  deriving DecidableEq, Repr

/-- The reply-queue place a frame holds: an open request's, a refusal's, or the RESET request's (R177, R187). -/
inductive Place where
  | request | refusal | reset
  deriving DecidableEq, Repr

/-- An entry of the reply queue (R187). -/
structure Reply where
  frame : Frame
  place : Place
  deriving DecidableEq, Repr

/-- The causes of a start-up frame (R190). -/
inductive Cause where
  | power | pin | full | bus | link
  deriving DecidableEq, Repr

/-- Where the frame in progress came from (R182). -/
inductive TxSource where
  | startUp | reply | notice | overflow
  deriving DecidableEq, Repr

/-- The frame in progress (R182). -/
structure TxFrame where
  frame : Frame
  source : TxSource
  deriving DecidableEq, Repr

/-- The Notice Queue and Outbound Arbiter (R182). The overflow marker, when it stands, follows the last notice. -/
structure Ntq where
  notices : List Notice
  marker : Option Nat
  credits : Nat
  replies : List Reply
  refusals : Nat
  startUp : Option Cause
  tx : Option TxFrame
  attn : Bool
  pulse : Option Nat
  deriving DecidableEq, Repr

/-! ### The whole state -/

/-- The state of the H30: the blocks of spec/00, the global counters of R175 and R194, whether RESETn is held low (R161),
and the model's own fields `choices` (how many free choices of order have been used, log 5) and `pending` (the commands
waiting, log 2). -/
structure State where
  cye : Cye
  sbk : Sbk
  stt : Stt
  adm : Adm
  mpl : Mpl
  dlv : Dlv
  ulr : Ulr
  lif : Lif
  hlk : Hlk
  rex : Rex
  ntq : Ntq
  counters : Vector Nat 39
  resetLow : Bool
  choices : Nat
  pending : List Instr
  deriving DecidableEq, Repr

/-- No command of the H30 stops it with a fault: the spec reports every error by a reply, a counter, a notice or a
REJECT frame, and the part goes on (INVENTORY.md, Faults). There is no constructor. -/
inductive Fault where
  deriving DecidableEq, Repr

/-- Refusals. -/
inductive Refusal where
  /-- Raised by an arm of `exec` that has no meaning yet; no arm is left so. Safe. -/
  | notModelled (mnemonic : String)
  deriving DecidableEq, Repr

/-! ### Values after power-on -/

/-- R1, last column. -/
def Cye.reset : Cye :=
  { state := .stopped, cycle := 0, slot := 0, start := none, stop := none, deadline := none, streak := 0,
    cause := .none }

/-- The default bank: length 8, all 60 entries IDLE with owner 0 (R21). -/
def Bank.default : Bank := { entries := Vector.replicate 60 ⟨.idle, 0⟩, length := 8 }

/-- R21, last column. -/
def Sbk.reset : Sbk :=
  { active := Bank.default, edit := Bank.default, epoch := 0, edited := false, commit := none }

/-- R38: no record, an empty stranger set. -/
def Stt.reset : Stt := { records := Vector.replicate 30 none, strangers := [] }

/-- R63: NONE with echo address 0. -/
def Adm.reset : Adm := { result := .none, echo := 0 }

/-- R77: all 48 buffers free, handle counter 1. -/
def Mpl.reset : Mpl := { free := 48, down := 0, up := 0, handleCounter := 1, messages := [] }

/-- R86. -/
def Dlv.reset : Dlv := { queue := [], inFlight := none, next := 0 }

/-- R107. -/
def Ulr.reset : Ulr := { inbox := [], arrival := 0 }

/-- R129. -/
def Lif.reset : Lif := { line := .idle }

/-- R149, R150, R159, at a given link rate. -/
def Hlk.reset (rate : LinkRate) : Hlk := { rate := rate, rx := .hunt, gap := .stopped, chr := .waitHigh }

/-- The defaults of R171. -/
def Settings.defaults : Settings :=
  { busRate := 1, guard := 24, lockIn := 3, lockOut := 4, retryLimit := 3, repeats := 1, faultStreak := 3,
    attnMode := .level, pulseLength := 10 }

/-- R162, last column. -/
def Rex.reset : Rex := { inbox := [], openCount := 0, resetInHand := none, config := Settings.defaults }

/-- R182, last column, with the start-up frame owed for a cause. -/
def Ntq.reset (startUp : Option Cause) : Ntq :=
  { notices := [], marker := none, credits := 0, replies := [], refusals := 0, startUp := startUp, tx := none,
    attn := false, pulse := none }

/-- The start-up frame: kind 0x7E, tag 0x00, the cause POWER (R190; code 0x00 of spec/11, 11.3). -/
def powerStartUpFrame : Frame := { kind := 0x7E, tag := 0x00, body := [0x00] }

/-- The machine right after power-on. Every item has the value its rule gives. The start-up frame with cause POWER has
just been started: the arbiter chooses it at the instant it becomes pending (R188, R190; log 3). The link rate is the
one of two low straps (DESIGN CHOICE, log 4). -/
def State.reset : State :=
  { cye := Cye.reset, sbk := Sbk.reset, stt := Stt.reset, adm := Adm.reset, mpl := Mpl.reset, dlv := Dlv.reset,
    ulr := Ulr.reset, lif := Lif.reset, hlk := Hlk.reset .baud115200, rex := Rex.reset,
    ntq := { Ntq.reset none with tx := some { frame := powerStartUpFrame, source := .startUp } },
    counters := Vector.replicate 39 0, resetLow := false, choices := 0, pending := [] }

end Sys2Proof.Machine
end

