-- ==== Sys2Proof/Machine/Bits.lean ====
section
/-! DEFINITION. Bit lists, most significant bit first, and the two remainders (R130, R132, R154). -/

namespace Sys2Proof.Machine

/-- The bits of a field in the order they are sent: most significant first (R130, spec/11). -/
def bitsOf {w : Nat} (x : BitVec w) : List Bool := (List.range w).map x.getMsbD

/-- The bits of a run of bytes, each most significant bit first (R130, R154). -/
def bitsOfBytes (bs : List Byte) : List Bool := bs.flatMap bitsOf

/-- The field of width `w` that a list of bits spells, most significant first. -/
def fieldOf (w : Nat) (bits : List Bool) : BitVec w := BitVec.ofNat w (bits.foldl (fun n b => 2 * n + b.toNat) 0)

/-- The bytes that `n` runs of eight bits spell. -/
def bytesOf : Nat → List Bool → List Byte
  | 0, _ => []
  | n + 1, bits => fieldOf 8 (bits.take 8) :: bytesOf n (bits.drop 8)

/-- One bit of a remainder (R132, R154): the bit is combined with the top bit, the remainder shifts one place up, and the
polynomial is combined in when the combined bit was 1. -/
def crcBit (poly r : Half) (b : Bool) : Half :=
  if r.msb ^^ b then (r <<< 1) ^^^ poly else r <<< 1

/-- A remainder carried over a run of bits. -/
def crcBits (poly r : Half) (bits : List Bool) : Half := bits.foldl (crcBit poly) r

/-- The segment CRC over header and payload bits: polynomial 0x8005, start 0 (R132). -/
def segmentCrc (bits : List Bool) : Half := crcBits 0x8005 0x0000 bits

/-- The start of the frame check (R154). -/
def frameCheckStart : Half := 0xFFFF

/-- The frame check carried over one byte: polynomial 0x1021 (R154). -/
def frameCheckByte (r : Half) (b : Byte) : Half := crcBits 0x1021 r (bitsOf b)

/-- The frame check over a run of bytes (R154). -/
def frameCheck (bs : List Byte) : Half := bs.foldl frameCheckByte frameCheckStart

/-- The two bytes of a 16-bit field, most significant first (R195). -/
def twoBytes (n : Nat) : List Byte := [BitVec.ofNat 8 (n / 256), BitVec.ofNat 8 n]

/-- A number of 0 to 255 as its byte (R195). -/
def oneByte (n : Nat) : Byte := BitVec.ofNat 8 n

/-- A yes-or-no item (R195). -/
def flagByte (b : Bool) : Byte := if b then 0x01 else 0x00

end Sys2Proof.Machine
end

