-- ==== Sys2Proof/Machine/Formats.lean ====
section
/-! DEFINITION. The codes and layouts of host frames: spec/11, 11.1 to 11.6 (R195), and the order in which the counters
of a set are read (R175, R176, R194). -/

namespace Sys2Proof.Machine

/-! ### Frames on the link -/

/-- The marker byte of every frame (spec/11, 11.1). -/
def marker : Byte := 0xC3

/-- The bytes the frame check covers: the length L, the kind, the tag and the body (R154). -/
def checkedBytes (f : Frame) : List Byte := oneByte (f.body.length + 2) :: f.kind :: f.tag :: f.body

/-- A frame as it stands on the link: marker, L, kind, tag, body and the two check bytes (R158, spec/11, 11.1). -/
def wireBytes (f : Frame) : List Byte := marker :: checkedBytes f ++ twoBytes (frameCheck (checkedBytes f)).toNat

/-- The ten bit times of a character: a low start bit, the data bits least significant first, a high stop bit (R148). -/
def characterBits (b : Byte) : List Bool := false :: (bitsOf b).reverse ++ [true]

/-! ### Kind codes (spec/11, 11.2) -/

def kindIdentify : Byte := 0x01
def kindStatus : Byte := 0x02
def kindConfigure : Byte := 0x03
def kindReadConfig : Byte := 0x04
def kindStart : Byte := 0x05
def kindStop : Byte := 0x06
def kindSchedEdit : Byte := 0x07
def kindSchedRead : Byte := 0x08
def kindSchedCommit : Byte := 0x09
def kindEnroll : Byte := 0x0A
def kindRetire : Byte := 0x0B
def kindStationQuery : Byte := 0x0C
def kindStrangers : Byte := 0x0D
def kindSend : Byte := 0x0E
def kindCancel : Byte := 0x0F
def kindFlush : Byte := 0x10
def kindMsgStatus : Byte := 0x11
def kindFetch : Byte := 0x12
def kindGrant : Byte := 0x13
def kindCounters : Byte := 0x14
def kindReset : Byte := 0x15
def kindStartUp : Byte := 0x7E
def kindReject : Byte := 0x7F

/-- The kind of a reply: the request's kind byte with its most significant bit set (R165). -/
def replyKind (kind : Byte) : Byte := kind ||| 0x80

/-- A kind byte names a request: 0x01 to 0x15 (R165). -/
def namesRequest (kind : Byte) : Bool := decide (0x01 ≤ kind ∧ kind ≤ 0x15)

/-! ### Status codes (spec/11, 11.3) -/

/-- The status of a reply (spec/09, 9.3). -/
inductive Status where
  | ok | badKind | badLength | badArgument | state | busy | notEnrolled | queueFull | poolFull | stationAbsent
  | noSuchMessage | tooLate | empty | scheduleInvalid | lineBusy | cancelled | abandoned | inboxFull | badCheck
  deriving DecidableEq, Repr

/-- Status codes. -/
def statusCode : Status → Byte
  | .ok => 0x00
  | .badKind => 0x01
  | .badLength => 0x02
  | .badArgument => 0x03
  | .state => 0x04
  | .busy => 0x05
  | .notEnrolled => 0x06
  | .queueFull => 0x07
  | .poolFull => 0x08
  | .stationAbsent => 0x09
  | .noSuchMessage => 0x0A
  | .tooLate => 0x0B
  | .empty => 0x0C
  | .scheduleInvalid => 0x0D
  | .lineBusy => 0x0E
  | .cancelled => 0x0F
  | .abandoned => 0x10
  | .inboxFull => 0x11
  | .badCheck => 0x12

/-! ### Other codes (spec/11, 11.3) -/

/-- The reasons of SCHEDULE_INVALID (R31). -/
inductive BankFault where
  | lengthRange | ownerKind | tooManyAdmit | stationSlots | unpaired
  deriving DecidableEq, Repr

def bankFaultCode : BankFault → Byte
  | .lengthRange => 0x01
  | .ownerKind => 0x02
  | .tooManyAdmit => 0x03
  | .stationSlots => 0x04
  | .unpaired => 0x05

def resultCode : Result → Byte
  | .delivered => 0x00
  | .failed => 0x01
  | .discarded => 0x02
  | .cancelled => 0x03

def reasonCode : Reason → Byte
  | .none => 0x00
  | .noAck => 0x01
  | .stationBusy => 0x02
  | .stationLost => 0x03
  | .retired => 0x04
  | .flushed => 0x05

def presenceCode : Presence → Byte
  | .absent => 0x00
  | .acquiring => 0x01
  | .present => 0x02

def strangerReasonCode : StrangerReason → Byte
  | .unknown => 0x00
  | .cls => 0x01

def engineStateCode : EngineState → Byte
  | .stopped => 0x00
  | .listening => 0x01
  | .running => 0x02
  | .halting => 0x03

def faultCauseCode : FaultCause → Byte
  | .none => 0x00
  | .echoBeacon => 0x01
  | .echoData => 0x02
  | .echoEmpty => 0x03

def causeCode : Cause → Byte
  | .power => 0x00
  | .pin => 0x01
  | .full => 0x02
  | .bus => 0x03
  | .link => 0x04

def classCode : StationClass → Byte
  | .any => 0xFF
  | .is c => c

def noticeModeCode : NoticeMode → Byte
  | .none => 0x00
  | .onLoss => 0x01
  | .onGain => 0x02
  | .both => 0x03

def slotKindCode : SlotKind → Byte
  | .idle => 0x00
  | .down => 0x01
  | .up => 0x02
  | .admission => 0x03

def phaseCode : Phase → Byte
  | .ready => 0x00
  | .awaitingAck => 0x01

def msgStateCode : MsgState → Byte
  | .queued => 0x00
  | .inFlight => 0x01

def attnModeCode : AttnMode → Byte
  | .level => 0x00
  | .pulse => 0x01

/-- Admit result codes of the beacon (R73). -/
def admitResultCode : AdmitResult → Byte
  | .none => 0
  | .accepted => 1
  | .refusedUnknown => 2
  | .refusedClass => 3
  | .collided => 4

/-- An optional 3-bit sequence: a present byte, then the item or 0x00 (R195). -/
def optionalSeq : Option Seq → List Byte
  | none => [0x00, 0x00]
  | some q => [0x01, q.zeroExtend 8]

/-! ### Frames the part makes -/

/-- A reply: the status byte, then the items (R165). -/
def replyFrame (kind tag : Byte) (st : Status) (items : List Byte) : Frame :=
  { kind := replyKind kind, tag := tag, body := statusCode st :: items }

/-- The start-up frame (R190). -/
def startUpFrame (c : Cause) : Frame := { kind := kindStartUp, tag := 0x00, body := [causeCode c] }

/-- The REJECT frame of a damaged frame: its tag as received, BAD_CHECK and the kind as received (R156). -/
def rejectFrame (kind tag : Byte) : Frame :=
  { kind := kindReject, tag := tag, body := [statusCode .badCheck, kind] }

/-- The frame of a notice (spec/11, 11.6). -/
def noticeFrame : Notice → Frame
  | .presence a o n => { kind := 0x41, tag := 0x00, body := [oneByte a, presenceCode o, presenceCode n] }
  | .joinHeard a c => { kind := 0x42, tag := 0x00, body := [oneByte a, c] }
  | .stranger a c r => { kind := 0x43, tag := 0x00, body := [oneByte a, c, strangerReasonCode r] }
  | .restarted a => { kind := 0x44, tag := 0x00, body := [oneByte a] }
  | .outcome h d r w => { kind := 0x45, tag := 0x00, body := twoBytes h ++ [oneByte d, resultCode r, reasonCode w] }
  | .uplinkReady n => { kind := 0x46, tag := 0x00, body := [oneByte n] }
  | .busFault k c => { kind := 0x47, tag := 0x00, body := [oneByte k, c] }

/-- The OVERFLOW notice's frame (R185, spec/11, 11.6). -/
def overflowFrame (dropped : Nat) : Frame := { kind := 0x48, tag := 0x00, body := [oneByte dropped] }

/-! ### Counter sets -/

/-- The place of a global counter in the set, from 0 (R175, R194). -/
def globalIndex (c : GlobalCounter) : Fin 39 := ⟨c.ctorIdx, by cases c <;> decide⟩

/-- The place of a station counter in the set, from 0 (R176). -/
def stationIndex (c : StationCounter) : Fin 31 := ⟨c.ctorIdx, by cases c <;> decide⟩

/-- A counter set as it is sent: each counter in two bytes, in the set's order (R173). -/
def counterBytes {n : Nat} (v : Vector Nat n) : List Byte := v.toList.flatMap twoBytes

end Sys2Proof.Machine
end

