-- ==== Sys2Proof/Machine/Timing.lean ====
section
/-! DEFINITION. The times the spec states as functions of the configuration and the strapped rate (R2, R3, R133, R144,
R148). The machine's step uses the lengths; the rest says when, within a slot, its events fall (log 2, log 6). -/

namespace Sys2Proof.Machine

/-- Bit times in a slot: opening window 16, segment room 136, guard (R2). -/
def slotLength (c : Settings) : Nat := 16 + 136 + c.guard

/-- Bit times in a cycle: the beacon slot and N schedule slots (R3). -/
def cycleLength (c : Settings) (b : Bank) : Nat := (b.length + 1) * slotLength c

/-- One bit time on the bus in microseconds, by the rate setting 0 to 3 (R144). -/
def busBitMicroseconds (rate : Nat) : Nat := 16 / 2 ^ rate

/-- The link rate the straps RATE1 and RATE0 select, high being true (R148). -/
def strapRate (rate1 rate0 : Bool) : LinkRate :=
  match rate1, rate0 with
  | false, false => .baud115200
  | false, true => .baud230400
  | true, false => .baud460800
  | true, true => .baud921600

/-- A link rate in baud (R148). -/
def baud : LinkRate → Nat
  | .baud115200 => 115200
  | .baud230400 => 230400
  | .baud460800 => 460800
  | .baud921600 => 921600

/-- Bit times of the link in a character (R148). -/
def characterTime : Nat := 10

/-- The gap timeout in bit times of the link: 8 character times (R148, R157). -/
def gapTimeoutTime : Nat := 8 * characterTime

/-- The break threshold in bit times of the link: 2 character times (R148, R149). -/
def breakThreshold : Nat := 2 * characterTime

/-- The phase of a transmission of `p` payload bytes at a time of its slot in half bit times; none once BDE is released.
Cell `k` begins at bit time 2 + k, LAG at bit time 74 + 8p, and BDE is released at 75 + 8p (R133). -/
def sendPhaseAt (p t : Nat) : Option SendPhase :=
  if t < 4 then some .lead
  else if t < 2 * (74 + 8 * p) then some (.cells ((t - 4) / 2) ((t - 4) % 2 == 1))
  else if t < 2 * (75 + 8 * p) then some .lag
  else none

/-- The phase that follows a phase of a segment of so many cells; LAG lasts until the transmission is completed (R133). -/
def nextSendPhase (cells : Nat) : SendPhase → SendPhase
  | .lead => .cells 0 false
  | .cells k false => .cells k true
  | .cells k true => if k + 1 < cells then .cells (k + 1) false else .lag
  | .lag => .lag

/-- The sample of a half of a cell is not yet past in a phase (R134). -/
def sampleAhead (phase : SendPhase) (cell : Nat) (secondHalf : Bool) : Bool :=
  match phase with
  | .lead => true
  | .cells k h => decide (2 * k + h.toNat ≤ 2 * cell + secondHalf.toNat)
  | .lag => false

end Sys2Proof.Machine
end

