-- ==== Sys2Proof/Machine/Line.lean ====
section
/-! DEFINITION. Segments as cells and levels, the echo check's driven level, and the receive part: from level changes on
BRX to a receive class (R130 to R142, R196). Times are thousandths of a bit time (log 8). -/

namespace Sys2Proof.Machine

/-! ### A segment as cells (R131, R196) -/

/-- The kind codes 0 to 3 (spec/11, 11.7). -/
def segKindCode : SegKind → BitVec 3
  | .beacon => 0
  | .data => 1
  | .empty => 2
  | .join => 3

/-- The kind of a code, none for 4 to 7 (R140). -/
def segKindOf (c : BitVec 3) : Option SegKind :=
  if c = 0 then some .beacon else if c = 1 then some .data else if c = 2 then some .empty
  else if c = 3 then some .join else none

/-- The 32 header bits, every spare bit 0 (R196). -/
def headerBits (s : Segment) : List Bool :=
  bitsOf (segKindCode s.kind) ++ bitsOf s.address ++
  bitsOf s.seq ++ [s.first, s.last, s.ackValid, s.busy, false] ++
  bitsOf s.ackSeq ++ bitsOf (BitVec.ofNat 4 s.payload.length) ++ [false] ++
  bitsOf s.echo

/-- The bits the CRC covers: header and payload (R132). -/
def coveredBits (s : Segment) : List Bool := headerBits s ++ bitsOfBytes s.payload

/-- The 16 alternating preamble cells, starting with 1 (R131). -/
def preambleCells : List Bool := (List.replicate 8 [true, false]).flatten

/-- The start delimiter 0xB3 (R131). -/
def delimiterCells : List Bool := bitsOf (0xB3 : Byte)

/-- A segment as it is sent, cell by cell (R131). -/
def segmentCells (s : Segment) : List Bool :=
  preambleCells ++ delimiterCells ++ coveredBits s ++ bitsOf (segmentCrc (coveredBits s))

/-- The level driven in the first or second half of a cell: low then high for 1, high then low for 0 (R130). -/
def halfLevel (cell secondHalf : Bool) : Bool := if secondHalf then cell else !cell

/-- The level LIF drives at the sample point of a half of a cell of the segment it sends; none outside its cells (R134). -/
def drivenLevel (s : Segment) (cell : Nat) (secondHalf : Bool) : Option Bool :=
  ((segmentCells s)[cell]?).map (halfLevel · secondHalf)

/-- The line levels of a run of cells, two to a cell (R130). -/
def halfLevels (cells : List Bool) : List Bool := cells.flatMap fun c => [halfLevel c false, halfLevel c true]

/-- The level changes of a run of half-cell levels from a time on, each half cell of the same length, the line before it at
`level` (R130). -/
def edgesFrom (half : Nat) (level : Bool) (time : Nat) : List Bool → List Edge
  | [] => []
  | l :: ls =>
    if l = level then edgesFrom half level (time + half) ls
    else { time := time, rising := l } :: edgesFrom half l (time + half) ls

/-- The level changes of a run of cells sent from a time on, on a line that idles high and returns to its idle level after the
last cell; `half` is the length of a half cell, 500 at the head-end's rate (R130, R133). -/
def cellEdges (half time : Nat) (cells : List Bool) : List Edge := edgesFrom half true time (halfLevels cells ++ [true])

/-- The level changes of a segment sent at exact bit times from a time on (R131, R133). -/
def segmentEdges (time : Nat) (s : Segment) : List Edge := cellEdges 500 time (segmentCells s)

/-! ### The pins of the bus side (R130, R133, R147) -/

/-- BDE: asserted in SEND and in no other line state (R133, R147). -/
def bde (s : State) : Bool :=
  match s.lif.line with
  | .send _ _ => true
  | .idle | .watch | .receive _ _ => false

/-- BTX: the level of the half cell being sent; the idle level, high, in every other phase and line state (R130). -/
def btx (s : State) : Bool :=
  match s.lif.line with
  | .send seg (.cells k h) => (drivenLevel seg k h).getD true
  | .send _ .lead | .send _ .lag => true
  | .idle | .watch | .receive _ _ => true

/-! ### The receive part (R136 to R142) -/

/-- Two times lie within a tolerance of each other, the ends included (log 8). -/
def near (a b tolerance : Nat) : Bool := decide (a ≤ b + tolerance) && decide (b ≤ a + tolerance)

/-- The cell at a tracked centre, from the level changes of its span: its value and the time of its centre transition,
or none for a cell judged COLLIDED. `after` is the lock run's fourth transition in the span of the first cell, whose
leading boundary transition is not counted (R138). -/
def judgeCell (centre : Nat) (after : Option Nat) (span : List Edge) : Option (Bool × Nat) :=
  let counted : List Edge := match after with
    | some t => span.filter fun e : Edge => !near e.time (t + 500) 125
    | none => span
  let mid := counted.filter fun e : Edge => near e.time centre 250
  let boundary := counted.filter fun e : Edge => near e.time (centre + 500) 125
  if mid.length + boundary.length = counted.length ∧ boundary.length ≤ 1 then
    match mid with
    | [e] => some (e.rising, e.time)
    | _ => none
  else none

/-- The segment that header and payload bits spell (R140, R196); none for a kind of 4 to 7 or a length of 9 to 15. -/
def segmentOf (bits : List Bool) : Option Segment :=
  let p := (fieldOf 4 ((bits.drop 19).take 4)).toNat
  match segKindOf (fieldOf 3 (bits.take 3)) with
  | none => none
  | some kind =>
    if p ≤ 8 then
      some { kind := kind, address := fieldOf 5 ((bits.drop 3).take 5), seq := fieldOf 3 ((bits.drop 8).take 3),
             first := bits.getD 11 false, last := bits.getD 12 false, ackValid := bits.getD 13 false,
             busy := bits.getD 14 false, ackSeq := fieldOf 3 ((bits.drop 16).take 3),
             echo := fieldOf 8 ((bits.drop 24).take 8), payload := bytesOf p (bits.drop 32) }
    else none

/-- The cells that follow a good header: eight for each payload byte and the 16 of the CRC (R140); none for a header
that makes the segment MALFORMED. -/
def cellsAfterHeader (header : List Bool) : Option Nat :=
  if (segKindOf (fieldOf 3 (header.take 3))).isSome ∧ (fieldOf 4 ((header.drop 19).take 4)).toNat ≤ 8 then
    some (8 * (fieldOf 4 ((header.drop 19).take 4)).toNat + 16)
  else none

/-- The class of a whole segment, from its header, payload and CRC cells (R141). -/
def classOfCells (cells : List Bool) : RxClass :=
  let covered := cells.take (cells.length - 16)
  if segmentCrc covered = fieldOf 16 (cells.drop (cells.length - 16)) then
    match segmentOf covered with
    | some s => .good s
    | none => .malformed
  else .crcBad

/-- The cells decoded so far, the lock run's four the first (R129, R136). -/
def decodedCells : RxStage → List Bool
  | .preamble _ cells => cells.reverse
  | .header _ lead cells | .rest _ lead cells => (cells ++ lead).reverse

/-- What one more decoded cell brings: a settled class with every cell decoded, or the next stage (R129, R139 to R141). -/
def takeCell (stage : RxStage) (v : Bool) : (RxClass × List Bool) ⊕ RxStage :=
  match stage with
  | .preamble n cells =>
    if ((v :: cells).take 8).reverse = delimiterCells then .inr (.header 32 (v :: cells) [])
    else if n + 1 = 24 then .inl (.collided, (v :: cells).reverse)
    else .inr (.preamble (n + 1) (v :: cells))
  | .header left lead cells =>
    if left ≤ 1 then
      match cellsAfterHeader (v :: cells).reverse with
      | some k => .inr (.rest k lead (v :: cells))
      | none => .inl (.malformed, (v :: cells ++ lead).reverse)
    else .inr (.header (left - 1) lead (v :: cells))
  | .rest left lead cells =>
    if left ≤ 1 then .inl (classOfCells (v :: cells).reverse, (v :: cells ++ lead).reverse)
    else .inr (.rest (left - 1) lead (v :: cells))

/-- Where the span of the next cell ends: at the end of its boundary zone, or at its boundary for the last CRC cell (R138). -/
def spanEnd (stage : RxStage) (centre : Nat) : Nat :=
  match stage with
  | .rest 1 _ _ => centre + 500
  | _ => centre + 625

/-- The most cells after lock: 24 to the delimiter, 32 of header, 64 of payload, 16 of CRC. -/
def cellFuel : Nat := 24 + 32 + 64 + 16 + 1

/-- The bit time, in thousandths, at which a receive part closes (R142). -/
def closing : Nat := 152000

/-- A lock run, latest transition first, has formed: PREAMBLE, or LATE where the preamble began at bit time 16 or later
; either way the run's transitions are four decoded cells (R136, R137). -/
def lockOn (run : List Edge) : RxPhase :=
  let dated : Int := ((run.getLast?.map Edge.time).getD 0 : Int) - 500
  let fourth := (run.head?.map Edge.time).getD 0
  if 16000 ≤ dated then .late dated (fourth + 1000) (run.map Edge.rising).reverse
  else .decode { dated := dated, centre := fourth + 1000, after := some fourth, span := [] }
    (.preamble 0 (run.map Edge.rising))

/-- A class settled after lock, with what LIF holds of the segment (R129). -/
def settledWith (cls : RxClass) (atClose : Bool) (cells : List Bool) (t : Tracking) : Reception :=
  { cls := cls, noise := true, atClose := atClose, dated := some t.dated, centre := some t.centre, cells := cells }

/-- A cell's span has ended: the cell is judged and decoded, and the centre tracked on (R138 to R141). A cell judged COLLIDED
drops the cells before it (R138); every other class keeps them (R129; log 20). -/
def closeCell (t : Tracking) (stage : RxStage) : RxPhase :=
  match judgeCell t.centre t.after t.span with
  | none => .settled (settledWith .collided false [] t)
  | some (v, at') =>
    match takeCell stage v with
    | .inl (cls, cells) => .settled (settledWith cls false cells { t with centre := at' + 1000 })
    | .inr stage' => .decode { dated := t.dated, centre := at' + 1000, after := none, span := [] } stage'

/-- The spans that end before a time are closed, one cell after another. The fuel bounds the cells a segment can hold. -/
def closeSpans : Nat → Nat → RxPhase → RxPhase
  | 0, _, phase => phase
  | fuel + 1, before, phase =>
    match phase with
    | .decode t stage =>
      if spanEnd stage t.centre < before then closeSpans fuel before (closeCell t stage) else phase
    | .wait _ | .late _ _ _ | .settled _ => phase

/-- A level change is heard, after the spans that ended before it: in WAIT it extends the candidate run or starts a new one,
from lock on it joins the present span, and in SETTLED it is ignored (R136, R138, R142). -/
def hearEdge (phase : RxPhase) (e : Edge) : RxPhase :=
  match closeSpans cellFuel e.time phase with
  | .wait run =>
    let run' := match run with
      | [] => [e]
      | p :: _ => if near e.time (p.time + 1000) 250 then e :: run else [e]
    if run'.length = 4 then lockOn run' else .wait run'
  | .decode t stage => .decode { t with span := t.span ++ [e] } stage
  | .late d c cells => .late d c cells
  | .settled r => .settled r

/-- The receive part closes at bit time 152: SILENT without a lock run, LATE where it was so, and an overrun where the segment
is not whole (R136, R137, R141, R142). -/
def closePart (phase : RxPhase) : Reception :=
  match phase with
  | .wait run => { cls := .silent, noise := !run.isEmpty, atClose := true, dated := none, centre := none, cells := [] }
  | .decode t stage => settledWith .collided true (decodedCells stage) t
  | .late d c cells => { cls := .late, noise := true, atClose := true, dated := some d, centre := some c, cells := cells }
  | .settled r => r

/-- The line is heard up to a time: its level changes in order, then the spans that have ended by then; and at bit time 152
the part closes. DESIGN CHOICE (log 18): a span that ends exactly at bit time 152 is judged before the part closes, so that a
segment whose last cell ends there is whole and no overrun (R138, R141). -/
def hear (edges : List Edge) (upTo : Nat) (phase : RxPhase) : RxPhase :=
  let heard := edges.filter fun e => decide (e.time ≤ upTo) && decide (e.time < closing)
  let phase' := closeSpans cellFuel (min upTo closing + 1) (heard.foldl hearEdge phase)
  if closing ≤ upTo then .settled (closePart phase') else phase'

/-- A whole receive part heard at once, from its opening in WAIT to its closing (R136 to R142). -/
def receivePart (edges : List Edge) : Reception := closePart (hear edges closing (.wait []))

/-- The class of a receive part is not settled and reported yet (R142). -/
def partOpen (phase : RxPhase) : Bool :=
  match phase with
  | .wait _ | .decode _ _ | .late _ _ _ => true
  | .settled _ => false

end Sys2Proof.Machine
end

