-- ==== Sys2Proof/Machine/Operands.lean ====
section
/-! DEFINITION. The operand forms of the requests: the body length that suits each kind (R166) and how a body's bytes are
read and ranged (R195, spec/11, 11.3 and 11.4). -/

namespace Sys2Proof.Machine

/-- Byte `i` of a body. -/
def byteAt (body : List Byte) (i : Nat) : Byte := body.getD i 0

/-- Byte `i` of a body as a number. -/
def numAt (body : List Byte) (i : Nat) : Nat := (byteAt body i).toNat

/-- The two-byte field at byte `i`, most significant byte first (R195). -/
def pairAt (body : List Byte) (i : Nat) : Nat := 256 * numAt body i + numAt body (i + 1)

/-- The body length suits the kind (R166). A kind that names no request is judged before its length (R165). -/
def lengthSuits (kind : Byte) (body : List Byte) : Bool :=
  if kind = kindIdentify ∨ kind = kindStatus ∨ kind = kindReadConfig ∨ kind = kindStart ∨ kind = kindStop ∨
     kind = kindSchedCommit ∨ kind = kindStrangers then body.length = 0
  else if kind = kindConfigure then body.length = 9
  else if kind = kindSchedEdit then 3 ≤ body.length ∧ body.length = 3 + 2 * numAt body 1
  else if kind = kindSchedRead then body.length = 3
  else if kind = kindEnroll then body.length = 4
  else if kind = kindRetire ∨ kind = kindStationQuery ∨ kind = kindFlush then body.length = 1
  else if kind = kindSend then 2 ≤ body.length
  else if kind = kindCancel ∨ kind = kindMsgStatus then body.length = 2
  else if kind = kindFetch then body.length ≤ 1
  else if kind = kindGrant then body.length = 1
  else if kind = kindCounters then body.length = 2
  else if kind = kindReset then body.length = 1
  else false

/-- A station address: 1 to 30 (R38). -/
def stationAddress (a : Nat) : Bool := decide (1 ≤ a ∧ a ≤ 30)

/-- A yes-or-no byte, none for a byte out of range (R195). -/
def flagOf (b : Byte) : Option Bool := if b = 0x00 then some false else if b = 0x01 then some true else none

/-- The class byte of ENROLL, none for 0x10 to 0xFE (spec/11, 11.3). -/
def classOf (b : Byte) : Option StationClass :=
  if b = 0xFF then some .any else if b ≤ 0x0F then some (.is b) else none

/-- The notice-mode byte of ENROLL (spec/11, 11.3). -/
def noticeModeOf (b : Byte) : Option NoticeMode :=
  if b = 0 then some .none else if b = 1 then some .onLoss else if b = 2 then some .onGain
  else if b = 3 then some .both else none

/-- A schedule entry kind byte (R22). -/
def slotKindOf (b : Byte) : Option SlotKind :=
  if b = 0 then some .idle else if b = 1 then some .down else if b = 2 then some .up
  else if b = 3 then some .admission else none

/-- The scope byte of RESET (spec/11, 11.3). -/
def scopeOf (b : Byte) : Option Scope :=
  if b = 1 then some .full else if b = 2 then some .bus else if b = 3 then some .link else none

/-- A kind and owner pair of SCHED_EDIT, none where either is out of range (R23). -/
def entryOf (kind owner : Byte) : Option Entry :=
  match slotKindOf kind with
  | some k => if owner.toNat ≤ 31 then some { kind := k, owner := owner.toNat } else none
  | none => none

/-- The pairs of a SCHED_EDIT body, none where one of them is out of range (R23). -/
def entriesOf : List Byte → Option (List Entry)
  | k :: o :: rest =>
    match entryOf k o, entriesOf rest with
    | some e, some es => some (e :: es)
    | _, _ => none
  | _ => some []

/-- The nine settings of a CONFIGURE body, none where one is out of its range (R171). -/
def settingsOf (body : List Byte) : Option Settings :=
  let n := numAt body
  if n 0 ≤ 3 ∧ (8 ≤ n 1 ∧ n 1 ≤ 64) ∧ (1 ≤ n 2 ∧ n 2 ≤ 8) ∧ (1 ≤ n 3 ∧ n 3 ≤ 16) ∧ n 4 ≤ 7 ∧ n 5 ≤ 3 ∧
     (1 ≤ n 6 ∧ n 6 ≤ 8) ∧ n 7 ≤ 1 ∧ 1 ≤ n 8 then
    some { busRate := n 0, guard := n 1, lockIn := n 2, lockOut := n 3, retryLimit := n 4, repeats := n 5,
           faultStreak := n 6, attnMode := if n 7 = 0 then .level else .pulse, pulseLength := n 8 }
  else none

/-- The nine settings as READ_CONFIG sends them (R172). -/
def settingsBytes (c : Settings) : List Byte :=
  [oneByte c.busRate, oneByte c.guard, oneByte c.lockIn, oneByte c.lockOut, oneByte c.retryLimit, oneByte c.repeats,
   oneByte c.faultStreak, attnModeCode c.attnMode, oneByte c.pulseLength]

end Sys2Proof.Machine
end

