-- ==== Sys2Proof/Machine/Ops.lean ====
section
/-! DEFINITION. The shared operations: counters, station lookup, the pool's counts, offering a notice, joining the reply
queue, the outbound arbiter, and how a command is taken. -/

namespace Sys2Proof.Machine

/-! ### Counters (spec/00, Conventions; R58, R175) -/

/-- A counter advanced by 1, stopping at 65535. -/
def advance (n : Nat) : Nat := min (n + 1) Config.counterMax

/-- The value of a global counter. -/
def globalCount (c : GlobalCounter) (s : State) : Nat := s.counters[globalIndex c]

/-- A global counter advances by 1. -/
def countGlobal (c : GlobalCounter) (s : State) : State :=
  { s with counters := s.counters.set (globalIndex c) (advance s.counters[globalIndex c]) }

/-- The value of a counter of a station record. -/
def stationCount (c : StationCounter) (st : Station) : Nat := st.counters[stationIndex c]

/-- A counter of a station record advances by 1. -/
def countIn (c : StationCounter) (st : Station) : Station :=
  { st with counters := st.counters.set (stationIndex c) (advance st.counters[stationIndex c]) }

/-! ### The station table (R38) -/

/-- The record of an address at the instant a block acts on it; none where the address is unenrolled (R38). -/
def station (a : Nat) (s : State) : Option Station :=
  if stationAddress a then (s.stt.records[a - 1]?).join else none

/-- The record of an address is written, or removed. Addresses outside 1 to 30 never have one (R38). -/
def setStation (a : Nat) (r : Option Station) (s : State) : State :=
  if stationAddress a then { s with stt.records := s.stt.records.setIfInBounds (a - 1) r } else s

/-- A change to the record of an address, where it has one. -/
def onStation (a : Nat) (f : Station → Station) (s : State) : State :=
  match station a s with
  | some st => setStation a (some (f st)) s
  | none => s

/-- A change to every record. -/
def onStations (f : Station → Station) (s : State) : State :=
  { s with stt.records := s.stt.records.map (Option.map f) }

/-- A station counter advances by 1, where the address has a record (R58). -/
def countStation (a : Nat) (c : StationCounter) (s : State) : State := onStation a (countIn c) s

/-- "Its sequences are reset" (R39); the busy-answer flag is cleared with them (R107). -/
def resetSequences (st : Station) : Station :=
  { st with downNext := 0, upExpected := 0, lastAccepted := none, busyAnswer := false }

/-! ### The pool's counts (R77, R78) -/

/-- A free buffer becomes downlink-held. -/
def lendDown (s : State) : State := { s with mpl.free := s.mpl.free - 1, mpl.down := s.mpl.down + 1 }

/-- A downlink-held buffer becomes free. -/
def returnDown (s : State) : State := { s with mpl.free := s.mpl.free + 1, mpl.down := s.mpl.down - 1 }

/-- A free buffer becomes uplink-held. -/
def lendUp (s : State) : State := { s with mpl.free := s.mpl.free - 1, mpl.up := s.mpl.up + 1 }

/-- An uplink-held buffer becomes free. -/
def returnUp (s : State) : State := { s with mpl.free := s.mpl.free + 1, mpl.up := s.mpl.up - 1 }

/-- A station's reassembly context is discarded and its buffer returned, without a notice or a counter (R122). -/
def discardContext (a : Nat) (s : State) : State :=
  match station a s with
  | some st => if st.context.isSome then returnUp (onStation a (fun r => { r with context := none }) s) else s
  | none => s

/-! ### Notices (R183, R184, R191, R192) -/

/-- The notice queue holds no entry, the marker included (R191). -/
def noticeQueueEmpty (s : State) : Bool := s.ntq.notices.isEmpty && s.ntq.marker.isNone

/-- ATTN when a notice joins an empty queue: asserted, and in pulse mode the pulse timer starts (R191, R192). -/
def attnOnFirst (s : State) : State :=
  match s.rex.config.attnMode with
  | .level => { s with ntq.attn := true }
  | .pulse => { s with ntq.attn := true, ntq.pulse := some s.rex.config.pulseLength }

/-- ATTN when an entry has left the queue: in level mode released once the queue is empty (R191). -/
def attnOnLeave (s : State) : State :=
  match s.rex.config.attnMode with
  | .level => if noticeQueueEmpty s then { s with ntq.attn := false } else s
  | .pulse => s

/-- A notice is offered: it joins the tail, or is dropped into the overflow marker (R183, R184). -/
def offer (n : Notice) (s : State) : State :=
  match s.ntq.marker with
  | none =>
    if s.ntq.notices.length < Config.noticePlaces then
      if s.ntq.notices.isEmpty then attnOnFirst { s with ntq.notices := [n] }
      else { s with ntq.notices := s.ntq.notices ++ [n] }
    else countGlobal .noticesDropped { s with ntq.marker := some 1 }
  | some k => countGlobal .noticesDropped { s with ntq.marker := some (min (k + 1) Config.creditMax) }

/-! ### The reply queue (R187) -/

/-- A frame joins the tail of the reply queue with the place it holds. -/
def joinReplies (f : Frame) (p : Place) (s : State) : State :=
  { s with ntq.replies := s.ntq.replies ++ [{ frame := f, place := p }] }

/-- A reply to a taken request joins at once (R165). -/
def reply (kind tag : Byte) (st : Status) (items : List Byte) (s : State) : State :=
  joinReplies (replyFrame kind tag st items) .request s

/-- A refusal joins if a refusal place is free, and counts itself; otherwise only the drop is counted (R156, R163). -/
def refuse (f : Frame) (made dropped : Option GlobalCounter) (s : State) : State :=
  let count (c : Option GlobalCounter) (t : State) : State := match c with
    | some c => countGlobal c t
    | none => t
  if s.ntq.refusals < Config.refusalPlaces then
    count made (joinReplies f .refusal { s with ntq.refusals := s.ntq.refusals + 1 })
  else count dropped s

/-- The frame of a deferred reply, unless its record is absent or forgotten (R15, R19, R32). -/
def deferredFrame (d : Option Deferred) (kind : Byte) (st : Status) (items : List Byte) : Option Frame :=
  match d with
  | some r => if r.forgotten then none else some (replyFrame kind r.tag st items)
  | none => none

/-- Two deferred replies of one boundary join in either order: a free choice where both are owed (R32, R178; log 5). -/
def joinEither (a b : Option Frame) (s : State) : State :=
  match a, b with
  | none, none => s
  | some f, none => joinReplies f .request s
  | none, some f => joinReplies f .request s
  | some f, some g =>
    let t := { s with choices := s.choices + 1 }
    if Config.eitherOrder s.choices then joinReplies f .request (joinReplies g .request t)
    else joinReplies g .request (joinReplies f .request t)

/-! ### The outbound arbiter (R185, R188 to R190) -/

/-- A RESET reply has been sent whole and its reset takes effect next; no other choice or event comes between (R177, R188). -/
def resetDue (s : State) : Bool :=
  match s.rex.resetInHand with
  | some r => r.replySent
  | none => false

/-- A frame starts on the transmitter. -/
def startFrame (f : Frame) (src : TxSource) (s : State) : State :=
  { s with ntq.tx := some { frame := f, source := src } }

/-- The arbiter's choice: nothing while the transmitter is busy, RESETn is low or a reset is due; otherwise the start-up
frame, the oldest reply, or against a credit the head notice or the marker standing alone (R188, R189, R185). -/
def arbitrate (s : State) : State :=
  if s.ntq.tx.isSome || s.resetLow || resetDue s then s
  else match s.ntq.startUp with
    | some c => startFrame (startUpFrame c) .startUp { s with ntq.startUp := none }
    | none =>
      match s.ntq.replies with
      | r :: _ => startFrame r.frame .reply s
      | [] =>
        if s.ntq.credits = 0 then s
        else match s.ntq.notices, s.ntq.marker with
          | n :: _, _ => startFrame (noticeFrame n) .notice { s with ntq.credits := s.ntq.credits - 1 }
          | [], some k =>
            startFrame (overflowFrame k) .overflow { s with ntq.marker := some 0, ntq.credits := s.ntq.credits - 1 }
          | [], none => s

/-! ### Taking a command -/

/-- The outcome type of a command. -/
abbrev Out := Host.Outcome State Fault Refusal

/-- The part takes no event: RESETn is low, or a reset takes effect at this instant (R159, R177). -/
def held (s : State) : Bool := s.resetLow || resetDue s

/-- A command and the change it makes, none where the rules do not let it happen now. A command that happens ends with
the arbiter's choice (R188; log 12); one that does not happen leaves the state as it is (log 1). -/
def perform (change : Option State) (s : State) : Out :=
  if held s then .next s
  else match change with
    | some t => .next (arbitrate t)
    | none => .next s

/-- The executor takes the oldest request of the inbox, when it is the one named and no reset is in hand: it leaves the
inbox, a wrong body length is answered BAD_LENGTH, and otherwise its owner takes it (R165). -/
def takeRequest (kind tag : Byte) (body : List Byte) (owner : State → State) (s : State) : Option State :=
  match s.rex.inbox with
  | r :: rest =>
    if s.rex.resetInHand = none ∧ r = { kind := kind, tag := tag, body := body } then
      let t := { s with rex.inbox := rest }
      some (if lengthSuits kind body then owner t else reply kind tag .badLength [] t)
    else none
  | [] => none

/-- A request command: the executor takes the request and gives it to its owner (R165). -/
def request (kind tag : Byte) (body : List Byte) (owner : State → State) (s : State) : Out :=
  perform (takeRequest kind tag body owner s) s

end Sys2Proof.Machine
end

