-- ==== Sys2Proof/Machine/Delivery.lean ====
section
/-! DEFINITION. Downlink Delivery and the Message Pool (spec/05): queues and in-flight records, the end of a message, DOWN
slots, acknowledgement, and the requests SEND, CANCEL, FLUSH and MSG_STATUS. -/

namespace Sys2Proof.Machine

/-! ### Messages (R79, R80) -/

/-- The message a handle names, if one in the pool holds it. -/
def message (h : Nat) (s : State) : Option Message := s.mpl.messages.find? fun m => m.handle == h

/-- The handle after one: 65535 is followed by 1 (R79). -/
def nextHandle (h : Nat) : Nat := if h = 65535 then 1 else h + 1

/-- The first handle from one on that no message holds. At most 32 messages exist, so 33 tries are enough (R79). -/
def freeHandle : Nat → Nat → List Message → Nat
  | 0, h, _ => h
  | fuel + 1, h, ms => if ms.any (fun m => m.handle == h) then freeHandle fuel (nextHandle h) ms else h

/-- The segments of a message of a length: ceil(L / 8) (R88). -/
def segmentCount (length : Nat) : Nat := (length + 7) / 8

/-- The bytes of segment `i` of a message (R88). -/
def segmentBytes (bytes : List Byte) (i : Nat) : List Byte := (bytes.drop (8 * i)).take 8

/-! ### In-flight records (R85, R86, R96) -/

/-- A fresh in-flight record (R85). -/
def freshInFlight (h : Nat) : InFlight :=
  { handle := h, index := 0, seqSent := none, retries := 0, busy := 0, phase := .ready, started := false }

/-- A fresh broadcast in-flight record (R86). -/
def freshBroadcast (h : Nat) : BroadcastInFlight :=
  { handle := h, index := 0, seqSent := none, sends := 0, started := false }

/-- The in-flight record of a queue: none for an empty one; the record held, while its message stays first; a fresh one
for a message that has become first (R85). -/
def headRecord {ρ : Type} (handleOf : ρ → Nat) (fresh : Nat → ρ) (queue : List Nat) (held : Option ρ) : Option ρ :=
  match queue with
  | [] => none
  | h :: _ =>
    match held with
    | some r => if handleOf r = h then some r else some (fresh h)
    | none => some (fresh h)

/-- The descriptors' states: IN_FLIGHT for the message that holds its queue's record, QUEUED for the others (R80). -/
def markMessages (dest : Nat) (head : Option Nat) (ms : List Message) : List Message :=
  ms.map fun m => if m.dest = dest then { m with state := if head = some m.handle then .inFlight else .queued } else m

/-- The queue of a destination (R84, R86). -/
def queueOf (dest : Nat) (s : State) : List Nat :=
  if dest = Config.broadcast then s.dlv.queue
  else match station dest s with
    | some st => st.queue
    | none => []

/-- The handle of the message of a queue that has started, if it has (R85). -/
def startedHandle (dest : Nat) (s : State) : Option Nat :=
  if dest = Config.broadcast then (s.dlv.inFlight.filter BroadcastInFlight.started).map BroadcastInFlight.handle
  else match station dest s with
    | some st => (st.inFlight.filter InFlight.started).map InFlight.handle
    | none => none

/-- The queue of a destination is changed; the in-flight record and the descriptors' states follow (R80, R85, R86). -/
def setQueue (dest : Nat) (queue : List Nat) (s : State) : State :=
  let t : State :=
    if dest = Config.broadcast then
      { s with dlv.queue := queue,
               dlv.inFlight := headRecord BroadcastInFlight.handle freshBroadcast queue s.dlv.inFlight }
    else onStation dest (fun st => { st with queue := queue,
                                             inFlight := headRecord InFlight.handle freshInFlight queue st.inFlight }) s
  { t with mpl.messages := markMessages dest queue.head? t.mpl.messages }

/-- The in-flight record of a station's queue is replaced, where it has one. -/
def onInFlight (a : Nat) (f : InFlight → InFlight) (s : State) : State :=
  onStation a (fun st => { st with inFlight := st.inFlight.map f }) s

/-- A station's in-flight message is rewound (R96). -/
def rewindStation (st : Station) : Station := { st with inFlight := st.inFlight.map fun r => freshInFlight r.handle }

/-- The broadcast in-flight message is rewound (R96). -/
def rewindBroadcast (s : State) : State :=
  { s with dlv.inFlight := s.dlv.inFlight.map fun r => freshBroadcast r.handle }

/-! ### The end of a message (R97) -/

/-- The global counter of a result (R103). -/
def resultCounter : Result → GlobalCounter
  | .delivered => .delivered
  | .failed => .failed
  | .discarded => .discarded
  | .cancelled => .cancelled

/-- The station's own counter of a result, for DELIVERED and FAILED (R97). -/
def countStationResult (dest : Nat) (r : Result) (s : State) : State :=
  match r with
  | .delivered => countStation dest .messagesDelivered s
  | .failed => countStation dest .messagesFailed s
  | .discarded | .cancelled => s

/-- A message ends: it leaves its queue, its buffer returns, its result is counted and its OUTCOME offered (R97). -/
def endMessage (h : Nat) (r : Result) (w : Reason) (s : State) : State :=
  match message h s with
  | none => s
  | some m =>
    let t := setQueue m.dest ((queueOf m.dest s).erase h) s
    let u := returnDown { t with mpl.messages := t.mpl.messages.eraseP fun m => m.handle == h }
    offer (.outcome h m.dest r w) (countStationResult m.dest r (countGlobal (resultCounter r) u))

/-- Messages end one after another with one result and reason, in the order given (R97). -/
def endMessages (hs : List Nat) (r : Result) (w : Reason) (s : State) : State :=
  hs.foldl (fun t h => endMessage h r w t) s

/-! ### DOWN slots (R87 to R90) -/

/-- A segment is handed to LIF at a slot start: SEND, in LEAD (R133). -/
def handOver (seg : Segment) (s : State) : State :=
  countGlobal .transmissionsBegun { s with lif.line := .send seg .lead }

/-- The EMPTY segment to a station, with ULR's acknowledgement of its uplink (R89, R114). -/
def emptySegment (a : Nat) (st : Station) (s : State) : Segment :=
  { kind := .empty, address := BitVec.ofNat 5 a, seq := 0, first := false, last := false,
    ackValid := st.lastAccepted.isSome, busy := st.busyAnswer, ackSeq := st.lastAccepted.getD 0, echo := s.cye.cycle,
    payload := [] }

/-- The DATA segment to a station: the in-flight message's current segment under a sequence (R88, R114). -/
def dataSegment (a : Nat) (st : Station) (m : Message) (index : Nat) (q : Seq) (s : State) : Segment :=
  { kind := .data, address := BitVec.ofNat 5 a, seq := q, first := index = 0,
    last := index + 1 = segmentCount m.bytes.length, ackValid := st.lastAccepted.isSome, busy := st.busyAnswer,
    ackSeq := st.lastAccepted.getD 0, echo := s.cye.cycle, payload := segmentBytes m.bytes index }

/-- The DATA segment to broadcast: no acknowledgement (R90). -/
def broadcastSegment (m : Message) (index : Nat) (q : Seq) (s : State) : Segment :=
  { kind := .data, address := BitVec.ofNat 5 Config.broadcast, seq := q, first := index = 0,
    last := index + 1 = segmentCount m.bytes.length, ackValid := false, busy := false, ackSeq := 0, echo := s.cye.cycle,
    payload := segmentBytes m.bytes index }

/-- The hand-over of an in-flight message's current segment: its sequence on a first sending, the resend count
otherwise, started and AWAITING_ACK (R88). -/
def sendData (a : Nat) (st : Station) (r : InFlight) (m : Message) (s : State) : State :=
  let q := r.seqSent.getD st.downNext
  let record : InFlight := { r with seqSent := some q, started := true, phase := .awaitingAck }
  let t := match r.seqSent with
    | none => onStation a (fun x => countIn .dataSegmentsSent
        { x with downNext := x.downNext + 1, inFlight := some record }) s
    | some _ => onStation a (fun x => countIn .segmentsResent { x with inFlight := some record }) s
  handOver (dataSegment a st m r.index q s) t

/-- A DOWN slot of a station: silent without a record, DATA for a PRESENT station whose in-flight message is READY, EMPTY
otherwise (R87). -/
def stationDownSlot (a : Nat) (s : State) : State :=
  match station a s with
  | none => { s with lif.line := .idle }
  | some st =>
    if st.presence = .present then
      match st.inFlight with
      | some r =>
        if r.phase = .ready then
          match message r.handle s with
          | some m => sendData a st r m s
          | none => handOver (emptySegment a st s) s
        else handOver (emptySegment a st s) s
      | none => handOver (emptySegment a st s) s
    else handOver (emptySegment a st s) s

/-- The broadcast record after a send: the next segment once the current one has gone out repeats + 1 times (R90). -/
def afterBroadcastSend (repeats : Nat) (q : Seq) (r : BroadcastInFlight) : BroadcastInFlight :=
  if r.sends + 1 = repeats + 1 then { r with index := r.index + 1, seqSent := none, sends := 0, started := true }
  else { r with seqSent := some q, sends := r.sends + 1, started := true }

/-- A broadcast DOWN slot: silent when the queue is empty; otherwise a send, which ends the message DELIVERED after the
last send of its last segment (R90). -/
def broadcastDownSlot (s : State) : State :=
  match s.dlv.inFlight with
  | none => { s with lif.line := .idle }
  | some r =>
    match message r.handle s with
    | none => { s with lif.line := .idle }
    | some m =>
      let q := r.seqSent.getD s.dlv.next
      let next := if r.seqSent.isNone then s.dlv.next + 1 else s.dlv.next
      let t := countGlobal .broadcastSends (handOver (broadcastSegment m r.index q s) { s with dlv.next := next })
      let u := { t with dlv.inFlight := some (afterBroadcastSend s.rex.config.repeats q r) }
      if r.sends = s.rex.config.repeats ∧ r.index + 1 = segmentCount m.bytes.length then
        endMessage r.handle .delivered .none u
      else u

/-- A DOWN slot of an owner (R87, R90). -/
def downSlot (owner : Nat) (s : State) : State :=
  if owner = Config.broadcast then broadcastDownSlot s else stationDownSlot owner s

/-! ### Judging an outstanding segment (R92 to R94) -/

/-- ULR's report of an UP slot: the segment's answer fields, or none for no answer (R113). -/
structure Answer where
  ackValid : Bool
  ackSeq : Seq
  busy : Bool
  deriving DecidableEq, Repr

/-- The answer acknowledges a sequence sent (R92). -/
def acknowledges (ans : Answer) (sent : Option Seq) : Bool := ans.ackValid && decide (sent = some ans.ackSeq)

/-- The outstanding segment is acknowledged: the message ends DELIVERED with its last one, or moves on (R92). -/
def judgeAcked (a : Nat) (r : InFlight) (m : Message) (s : State) : State :=
  let t := countStation a .segmentsAcknowledged s
  if r.index + 1 = segmentCount m.bytes.length then endMessage r.handle .delivered .none t
  else onInFlight a (fun r => { r with index := r.index + 1, seqSent := none, retries := 0, busy := 0,
                                       phase := .ready }) t

/-- A BUSY answer: the sixteenth in a row fails the message (R93). -/
def judgeBusy (a : Nat) (r : InFlight) (s : State) : State :=
  let t := countStation a .busyAnswers s
  if r.busy + 1 = Config.busyLimit then endMessage r.handle .failed .stationBusy t
  else onInFlight a (fun r => { r with busy := r.busy + 1, phase := .ready }) t

/-- An unanswered judgement: a retry, or NO_ACK at the retry limit (R94). -/
def judgeUnanswered (a : Nat) (r : InFlight) (s : State) : State :=
  let t := countStation a .unansweredJudgements s
  if r.retries < s.rex.config.retryLimit then
    onInFlight a (fun r => { r with retries := r.retries + 1, busy := 0, phase := .ready }) t
  else endMessage r.handle .failed .noAck t

/-- The record that awaits a judgement at a station, with its message (R91, R92). -/
def awaiting (a : Nat) (s : State) : Option (InFlight × Message) :=
  match station a s with
  | some st =>
    match st.inFlight with
    | some r =>
      if r.phase = .awaitingAck then
        match message r.handle s with
        | some m => some (r, m)
        | none => none
      else none
    | none => none
  | none => none

/-- DLV takes ULR's report of a station's UP slot; it acts only on a segment that awaits its acknowledgement (R92). -/
def takeAnswer (a : Nat) (ans : Option Answer) (s : State) : State :=
  match awaiting a s with
  | none => s
  | some (r, m) =>
    match ans with
    | some x =>
      if acknowledges x r.seqSent then judgeAcked a r m s
      else if x.busy then judgeBusy a r s
      else judgeUnanswered a r s
    | none => judgeUnanswered a r s

/-! ### SEND (R81 to R84) -/

/-- The first refusal of a SEND, none when it is accepted (R81). -/
def sendRefusal (body : List Byte) (s : State) : Option Status :=
  let dest := numAt body 0
  let length := body.length - 2
  if length < 1 ∨ Config.bufferSize < length then some .badLength
  else if dest < 1 ∨ Config.broadcast < dest ∨ flagOf (byteAt body 1) = none then some .badArgument
  else if dest ≠ Config.broadcast ∧ station dest s = none then some .notEnrolled
  else if dest ≠ Config.broadcast ∧
      (station dest s).any (fun st => decide (st.presence ≠ .present) && !st.hold) then some .stationAbsent
  else if Config.queueDepth ≤ (queueOf dest s).length then some .queueFull
  else if s.mpl.free = 0 ∨ Config.downlinkLimit ≤ s.mpl.down then some .poolFull
  else none

/-- The message is urgent or started: an urgent message joins behind the last such one (R84). -/
def aheadOfUrgent (started : Option Nat) (s : State) (h : Nat) : Bool :=
  decide (started = some h) || (message h s).any Message.urgent

/-- The queue after a message has joined: a non-urgent one at the tail; an urgent one immediately behind the last that
is urgent or started, or at the front (R84). -/
def joinQueue (urgent : Bool) (ahead : Nat → Bool) (h : Nat) (queue : List Nat) : List Nat :=
  if urgent then
    let behind := (queue.reverse.takeWhile fun x => !ahead x).reverse
    queue.take (queue.length - behind.length) ++ h :: behind
  else queue ++ [h]

/-- An accepted SEND: a buffer is lent, a handle assigned, the descriptor written and the message queued (R79, R82). -/
def acceptSend (body : List Byte) (s : State) : State × Nat :=
  let dest := numAt body 0
  let urgent := decide (byteAt body 1 = 0x01)
  let h := freeHandle 33 s.mpl.handleCounter s.mpl.messages
  let m : Message := { handle := h, dest := dest, urgent := urgent, bytes := body.drop 2, state := .queued }
  let t := lendDown { s with mpl.handleCounter := nextHandle h, mpl.messages := s.mpl.messages ++ [m] }
  (setQueue dest (joinQueue urgent (aheadOfUrgent (startedHandle dest s) s) h (queueOf dest s)) t, h)

/-- SEND as DLV takes it (R81, R82); a refusal with POOL_FULL is counted (R78). -/
def takeSend (tag : Byte) (body : List Byte) (s : State) : State :=
  match sendRefusal body s with
  | some .poolFull => reply kindSend tag .poolFull [] (countGlobal .downlinkLendRefusals s)
  | some st => reply kindSend tag st [] s
  | none => reply kindSend tag .ok (twoBytes (acceptSend body s).2) (acceptSend body s).1

/-- SEND (R81). -/
def execSend (tag : Byte) (body : List Byte) (s : State) : Out := request kindSend tag body (takeSend tag body) s

/-! ### CANCEL, FLUSH, MSG_STATUS (R98, R100, R101) -/

/-- CANCEL as DLV takes it (R98). -/
def takeCancel (tag : Byte) (body : List Byte) (s : State) : State :=
  let h := pairAt body 0
  match message h s with
  | none => reply kindCancel tag .noSuchMessage [] s
  | some m =>
    if startedHandle m.dest s = some h then reply kindCancel tag .tooLate [] s
    else reply kindCancel tag .ok [] (endMessage h .cancelled .none s)

/-- CANCEL (R98). -/
def execCancel (tag : Byte) (body : List Byte) (s : State) : Out := request kindCancel tag body (takeCancel tag body) s

/-- FLUSH as DLV takes it: every message of the queue that is not started ends DISCARDED, FLUSHED, in queue order (R100). -/
def takeFlush (tag : Byte) (body : List Byte) (s : State) : State :=
  let a := numAt body 0
  if a < 1 ∨ Config.broadcast < a then reply kindFlush tag .badArgument [] s
  else if a ≠ Config.broadcast ∧ station a s = none then reply kindFlush tag .notEnrolled [] s
  else
    let hs := (queueOf a s).filter fun h => decide (startedHandle a s ≠ some h)
    reply kindFlush tag .ok [oneByte hs.length] (endMessages hs .discarded .flushed s)

/-- FLUSH (R100). -/
def execFlush (tag : Byte) (body : List Byte) (s : State) : Out := request kindFlush tag body (takeFlush tag body) s

/-- The in-flight items of MSG_STATUS: segment index, sequence sent, started, retries, busy count, phase, sends (R101). -/
def inFlightItems (m : Message) (s : State) : List Byte :=
  let noItems : List Byte := [0, 0, 0, 0, 0, 0, 0, 0]
  match m.state with
  | .queued => noItems
  | .inFlight =>
    if m.dest = Config.broadcast then
      match s.dlv.inFlight with
      | some r => oneByte r.index :: optionalSeq r.seqSent ++ [flagByte r.started, 0, 0, 0, oneByte r.sends]
      | none => noItems
    else
      match (station m.dest s).bind Station.inFlight with
      | some r => oneByte r.index :: optionalSeq r.seqSent ++
          [flagByte r.started, oneByte r.retries, oneByte r.busy, phaseCode r.phase, 0]
      | none => noItems

/-- The items of a MSG_STATUS reply (R101, spec/11, 11.5). -/
def msgStatusItems (m : Message) (s : State) : List Byte :=
  [oneByte m.dest, flagByte m.urgent, oneByte m.bytes.length, msgStateCode m.state,
   oneByte ((queueOf m.dest s).idxOf m.handle)] ++ inFlightItems m s

/-- MSG_STATUS as DLV takes it (R101). -/
def takeMsgStatus (tag : Byte) (body : List Byte) (s : State) : State :=
  match message (pairAt body 0) s with
  | none => reply kindMsgStatus tag .noSuchMessage [] s
  | some m => reply kindMsgStatus tag .ok (msgStatusItems m s) s

/-- MSG_STATUS (R101). -/
def execMsgStatus (tag : Byte) (body : List Byte) (s : State) : Out :=
  request kindMsgStatus tag body (takeMsgStatus tag body) s

end Sys2Proof.Machine
end

