-- ==== Sys2Proof/Machine/Schedule.lean ====
section
/-! DEFINITION. Schedule Banks (spec/02): the entries in use, the commit's checks, the swap and its rewinds, and the
requests SCHED_EDIT, SCHED_READ and SCHED_COMMIT. -/

namespace Sys2Proof.Machine

/-! ### Entries (R22) -/

/-- The entry at an index of a bank; IDLE 0 beyond the 60 that exist. -/
def entryAt (b : Bank) (i : Nat) : Entry := (b.entries[i]?).getD { kind := .idle, owner := 0 }

/-- The indices, rising, of the entries among 0 to N − 1 that satisfy a test. -/
def indicesOf (b : Bank) (test : Entry → Bool) : List Nat := (List.range b.length).filter fun i => test (entryAt b i)

/-- The indices of an address's DOWN entries (R29, R36). -/
def downIndices (b : Bank) (a : Nat) : List Nat := indicesOf b fun e => e.kind == .down && e.owner == a

/-- The indices of an address's UP entries (R29, R48). -/
def upIndices (b : Bank) (a : Nat) : List Nat := indicesOf b fun e => e.kind == .up && e.owner == a

/-- The address owns at least one DOWN entry among 0 to N − 1 (R36). -/
def ownsDown (b : Bank) (a : Nat) : Bool := !(downIndices b a).isEmpty

/-- The address owns at least one UP entry among 0 to N − 1 (R48). -/
def ownsUp (b : Bank) (a : Nat) : Bool := !(upIndices b a).isEmpty

/-! ### The checks of a commit (R27 to R31) -/

/-- The owner suits the kind (R22, R27). -/
def ownerSuits (e : Entry) : Bool :=
  match e.kind with
  | .idle => e.owner == 0
  | .admission => e.owner == 0
  | .up => decide (1 ≤ e.owner ∧ e.owner ≤ 30)
  | .down => decide (1 ≤ e.owner ∧ e.owner ≤ 31)

/-- LENGTH_RANGE: the first entry from index N on that is not IDLE (R27). -/
def lengthRangeFault (b : Bank) : Option Nat :=
  (List.range 60).find? fun i => decide (b.length ≤ i) && (entryAt b i).kind != .idle

/-- OWNER_KIND: the first entry below N whose owner does not suit its kind (R27). -/
def ownerKindFault (b : Bank) : Option Nat := (List.range b.length).find? fun i => !ownerSuits (entryAt b i)

/-- TOO_MANY_ADMIT: the second ADMIT entry (R28). -/
def tooManyAdmitFault (b : Bank) : Option Nat := (indicesOf b fun e => e.kind == .admission)[1]?

/-- The lower of two optional indices. -/
def lowerOf (i j : Option Nat) : Option Nat :=
  match i, j with
  | some x, some y => some (min x y)
  | some x, none => some x
  | none, j => j

/-- STATION_SLOTS: the fifth DOWN or fifth UP entry of the first address that has one (R29). -/
def stationSlotsFault (b : Bank) : Option Nat :=
  (List.range' 1 31).findSome? fun a => lowerOf (downIndices b a)[4]? (upIndices b a)[4]?

/-- UNPAIRED: the first entry of the first address that holds one kind without the other (R30). -/
def unpairedFault (b : Bank) : Option Nat :=
  (List.range' 1 30).findSome? fun a =>
    match (downIndices b a).head?, (upIndices b a).head? with
    | some d, none => some d
    | none, some u => some u
    | _, _ => none

/-- The first failing check of a bank and the index it reports, in the order of R31; none for a bank that passes. -/
def bankFault (b : Bank) : Option (BankFault × Nat) :=
  match lengthRangeFault b with
  | some i => some (.lengthRange, i)
  | none =>
    match ownerKindFault b with
    | some i => some (.ownerKind, i)
    | none =>
      match tooManyAdmitFault b with
      | some i => some (.tooManyAdmit, i)
      | none =>
        match stationSlotsFault b with
        | some i => some (.stationSlots, i)
        | none => (unpairedFault b).map fun i => (.unpaired, i)

/-! ### The swap (R34, R36) -/

/-- DLV's part of a swap: in-flight messages whose destination has no DOWN entry in the active bank are rewound (R36). -/
def rewindUnscheduled (s : State) : State :=
  let t := (List.range' 1 30).foldl
    (fun t a => if ownsDown s.sbk.active a then t else onStation a rewindStation t) s
  if ownsDown s.sbk.active Config.broadcast then t else rewindBroadcast t

/-- The swap: the pending bank becomes active, the epoch rises, the edited flag clears, the COMMIT record goes, and DLV acts
on it (R34). Its reply is given where the boundary gives it. -/
def swap (s : State) : State :=
  rewindUnscheduled
    { s with sbk.active := s.sbk.edit, sbk.epoch := s.sbk.epoch + 1, sbk.edited := false, sbk.commit := none }

/-- A pending commit is swapped at a boundary; nothing without one (R32). -/
def swapPending (s : State) : State := if s.sbk.commit.isSome then swap s else s

/-- The deferred reply a pending commit is owed at its swap, carrying the new epoch (R32). -/
def commitReply (s : State) : Option Frame :=
  deferredFrame s.sbk.commit kindSchedCommit .ok [s.sbk.epoch + 1]

/-! ### Requests -/

/-- Entries written in order from an index on (R24). -/
def writeEntries (v : Vector Entry 60) (i : Nat) : List Entry → Vector Entry 60
  | [] => v
  | e :: es => writeEntries (v.setIfInBounds i e) (i + 1) es

/-- The new length of a SCHED_EDIT is absent or in its range (R23, R166). -/
def newLengthFits (n : Nat) : Bool := decide (n = 0 ∨ (4 ≤ n ∧ n ≤ 60))

/-- SCHED_EDIT as SBK takes it (R23, R24). -/
def takeSchedEdit (tag : Byte) (body : List Byte) (s : State) : State :=
  let start := numAt body 0
  let k := numAt body 1
  let n := numAt body 2
  if s.sbk.commit.isSome then reply kindSchedEdit tag .busy [] s
  else
    match entriesOf (body.drop 3) with
    | some es =>
      if start ≤ 59 ∧ k ≤ 60 ∧ start + k ≤ 60 ∧ newLengthFits n ∧ ¬(k = 0 ∧ n = 0) then
        reply kindSchedEdit tag .ok []
          { s with sbk.edit := { entries := writeEntries s.sbk.edit.entries start es,
                                 length := if n = 0 then s.sbk.edit.length else n },
                   sbk.edited := true }
      else reply kindSchedEdit tag .badArgument [] s
    | none => reply kindSchedEdit tag .badArgument [] s

/-- SCHED_EDIT (R23). -/
def execSchedEdit (tag : Byte) (body : List Byte) (s : State) : Out :=
  request kindSchedEdit tag body (takeSchedEdit tag body) s

/-- Entries as they are sent: pairs of kind and owner (R25). -/
def entryBytes (b : Bank) (start count : Nat) : List Byte :=
  (List.range' start count).flatMap fun i => [slotKindCode (entryAt b i).kind, oneByte (entryAt b i).owner]

/-- The flags byte of SCHED_READ: bit 0 edited, bit 1 commit pending (spec/11, 11.5). -/
def readFlags (s : State) : Byte :=
  (if s.sbk.edited then 1 else 0) ||| (if s.sbk.commit.isSome then 2 else 0)

/-- SCHED_READ as SBK takes it (R25). -/
def takeSchedRead (tag : Byte) (body : List Byte) (s : State) : State :=
  let start := numAt body 1
  let count := numAt body 2
  if numAt body 0 ≤ 1 ∧ start ≤ 59 ∧ 1 ≤ count ∧ count ≤ 60 ∧ start + count ≤ 60 then
    let b := if numAt body 0 = 0 then s.sbk.active else s.sbk.edit
    reply kindSchedRead tag .ok
      ([byteAt body 0, oneByte b.length, s.sbk.epoch, readFlags s] ++ entryBytes b start count) s
  else reply kindSchedRead tag .badArgument [] s

/-- SCHED_READ (R25). -/
def execSchedRead (tag : Byte) (body : List Byte) (s : State) : Out :=
  request kindSchedRead tag body (takeSchedRead tag body) s

/-- SCHED_COMMIT as SBK takes it (R26). -/
def takeSchedCommit (tag : Byte) (s : State) : State :=
  if s.sbk.commit.isSome then reply kindSchedCommit tag .busy [] s
  else if !s.sbk.edited then reply kindSchedCommit tag .ok [s.sbk.epoch] s
  else
    match bankFault s.sbk.edit with
    | some (why, i) => reply kindSchedCommit tag .scheduleInvalid [bankFaultCode why, oneByte i] s
    | none =>
      if s.cye.state = .stopped then reply kindSchedCommit tag .ok [s.sbk.epoch + 1] (swap s)
      else { s with sbk.commit := some { tag := tag, forgotten := false } }

/-- SCHED_COMMIT (R26). -/
def execSchedCommit (tag : Byte) (body : List Byte) (s : State) : Out :=
  request kindSchedCommit tag body (takeSchedCommit tag) s

end Sys2Proof.Machine
end

