-- ==== Sys2Proof/Machine/Stations.lean ====
section
/-! DEFINITION. The Station Table (spec/03): presence evaluation, losses, the stranger set, and the requests ENROLL, RETIRE,
STATION_QUERY and STRANGERS. -/

namespace Sys2Proof.Machine

/-! ### Presence (R48 to R53) -/

/-- A gain is reported by the notice mode (R52). -/
def reportsGain : NoticeMode → Bool
  | .onGain | .both => true
  | .none | .onLoss => false

/-- A loss is reported by the notice mode (R52). -/
def reportsLoss : NoticeMode → Bool
  | .onLoss | .both => true
  | .none | .onGain => false

/-- The messages of a station queue end, in queue order: the head FAILED, and those behind it DISCARDED where they end
too, all with one reason (R43, R53). -/
def endQueue (queue : List Nat) (w : Reason) (behind : Bool) (s : State) : State :=
  match queue with
  | [] => s
  | h :: rest =>
    let t := endMessage h .failed w s
    if behind then endMessages rest .discarded w t else t

/-- A loss: its notice, the end of the in-flight message, the end of the queued ones unless they are held, and the
context discarded (R50, R52, R53). -/
def lose (a : Nat) (st : Station) (s : State) : State :=
  let t := countGlobal .stationsLost (countStation a .losses s)
  let u := if reportsLoss st.mode then offer (.presence a .present .absent) t else t
  discardContext a (endQueue st.queue .stationLost (!st.hold) u)

/-- The evaluation of a heard station (R49). -/
def evaluateHeard (a : Nat) (st : Station) (s : State) : State :=
  let c := s.rex.config
  let t := onStation a (fun x => countIn .cyclesHeard { x with miss := 0 }) s
  let good := min (st.good + 1) c.lockIn
  match st.presence with
  | .absent => onStation a (fun x => resetSequences { x with good := 1, presence := .acquiring }) t
  | .acquiring =>
    if good = c.lockIn then
      let u := countGlobal .stationsGained (onStation a
        (fun x => countIn .gains { x with good := good, presence := .present }) t)
      if reportsGain st.mode then offer (.presence a .acquiring .present) u else u
    else onStation a (fun x => { x with good := good }) t
  | .present => onStation a (fun x => { x with good := good }) t

/-- The evaluation of a station that was not heard (R50). -/
def evaluateMissed (a : Nat) (st : Station) (s : State) : State :=
  let miss := min (st.miss + 1) s.rex.config.lockOut
  let t := onStation a (fun x => countIn .cyclesMissed { x with good := 0, miss := miss }) s
  if miss = s.rex.config.lockOut then
    match st.presence with
    | .absent => t
    | .acquiring => onStation a (fun x => countIn .failedAcquisitions { x with presence := .absent }) t
    | .present => lose a st (onStation a (fun x => { x with presence := .absent }) t)
  else t

/-- The evaluation of one station, where it is enrolled and owned an UP entry (R48). -/
def evaluate (b : Bank) (a : Nat) (s : State) : State :=
  match station a s with
  | none => s
  | some st => if ownsUp b a then (if st.heard then evaluateHeard a st s else evaluateMissed a st s) else s

/-- Every heard-this-cycle flag is cleared (R47). -/
def clearHeard (s : State) : State := onStations (fun st => { st with heard := false }) s

/-- The presence evaluation of a cycle end: the stations that owned an UP entry in the ended cycle's bank, in ascending
address order, and then the heard flags (R7, R48). -/
def evaluatePresence (s : State) : State :=
  clearHeard ((List.range' 1 30).foldl (fun t a => evaluate s.sbk.active a t) s)

/-! ### The end of a run (R14) -/

/-- A record at the end of a run: ABSENT with counts 0 where it was not, not heard, its in-flight message rewound, its
context gone (R14). -/
def leaveRunRecord (st : Station) : Station :=
  let r := rewindStation { st with heard := false, context := none }
  if st.presence = .absent then r else { r with presence := .absent, good := 0, miss := 0 }

/-- The number of open contexts. -/
def openContexts (s : State) : Nat := s.stt.records.toList.countP fun r => (r.bind Station.context).isSome

/-- The buffers of every open context are returned (R14, R122). -/
def returnContexts (s : State) : State :=
  { s with mpl.free := s.mpl.free + openContexts s, mpl.up := s.mpl.up - openContexts s }

/-- The effects of leaving RUNNING or HALTING on STT, DLV, ULR and ADM (R14). -/
def leaveRun (s : State) : State :=
  { rewindBroadcast (onStations leaveRunRecord (returnContexts s)) with adm := { result := .none, echo := 0 } }

/-! ### The stranger set (R55 to R57) -/

/-- An entry inserted in ascending address order (R56). -/
def insertStranger (x : Stranger) : List Stranger → List Stranger
  | [] => [x]
  | y :: ys => if x.address < y.address then x :: y :: ys else y :: insertStranger x ys

/-- A refused address is inserted: a new entry is counted and reported, a member is left as it is (R55). -/
def addStranger (a : Nat) (cls : Byte) (why : StrangerReason) (s : State) : State :=
  if s.stt.strangers.any fun x => x.address == a then s
  else
    offer (.stranger a cls why) (countGlobal .strangerInsertions
      { s with stt.strangers := insertStranger { address := a, cls := cls, reason := why } s.stt.strangers })

/-- An address leaves the stranger set (R57). -/
def removeStranger (a : Nat) (s : State) : State :=
  { s with stt.strangers := s.stt.strangers.filter fun x => x.address != a }

/-! ### Requests -/

/-- The record ENROLL creates (R39, last column). -/
def newStation (cls : StationClass) (mode : NoticeMode) (hold : Bool) : Station :=
  { cls := cls, mode := mode, hold := hold, presence := .absent, good := 0, miss := 0, downNext := 0, upExpected := 0,
    lastAccepted := none, queue := [], inFlight := none, context := none, heard := false, busyAnswer := false,
    counters := Vector.replicate 31 0 }

/-- ENROLL as STT takes it (R40, R41, R57). -/
def takeEnroll (tag : Byte) (body : List Byte) (s : State) : State :=
  let a := numAt body 0
  match classOf (byteAt body 1), noticeModeOf (byteAt body 2), flagOf (byteAt body 3) with
  | some c, some m, some h =>
    if stationAddress a then
      match station a s with
      | none => reply kindEnroll tag .ok [0x00] (removeStranger a (setStation a (some (newStation c m h)) s))
      | some _ =>
        reply kindEnroll tag .ok [0x01]
          (removeStranger a (onStation a (fun x => { x with cls := c, mode := m, hold := h }) s))
    else reply kindEnroll tag .badArgument [] s
  | _, _, _ => reply kindEnroll tag .badArgument [] s

/-- ENROLL (R40). -/
def execEnroll (tag : Byte) (body : List Byte) (s : State) : Out := request kindEnroll tag body (takeEnroll tag body) s

/-- RETIRE as STT takes it (R43). -/
def takeRetire (tag : Byte) (body : List Byte) (s : State) : State :=
  let a := numAt body 0
  if stationAddress a then
    match station a s with
    | none => reply kindRetire tag .notEnrolled [] s
    | some st =>
      reply kindRetire tag .ok [oneByte st.queue.length]
        (setStation a none (discardContext a (endQueue st.queue .retired true s)))
  else reply kindRetire tag .badArgument [] s

/-- RETIRE (R43). -/
def execRetire (tag : Byte) (body : List Byte) (s : State) : Out := request kindRetire tag body (takeRetire tag body) s

/-- The in-flight items of STATION_QUERY (R45, spec/11, 11.5). -/
def queryInFlight : Option InFlight → List Byte
  | some r => 0x01 :: twoBytes r.handle ++
      [oneByte r.index, oneByte r.retries, oneByte r.busy, phaseCode r.phase, flagByte r.started]
  | none => [0, 0, 0, 0, 0, 0, 0, 0]

/-- The context items of STATION_QUERY (R45, spec/11, 11.5). -/
def queryContext : Option Context → List Byte
  | some c => [0x01, oneByte c.bytes.length, oneByte c.segments]
  | none => [0, 0, 0]

/-- The items of a STATION_QUERY reply (R45, spec/11, 11.5). -/
def stationItems (st : Station) : List Byte :=
  [classCode st.cls, noticeModeCode st.mode, flagByte st.hold, presenceCode st.presence, oneByte st.good,
   oneByte st.miss, st.downNext.zeroExtend 8, st.upExpected.zeroExtend 8] ++ optionalSeq st.lastAccepted ++
  [oneByte st.queue.length] ++ queryInFlight st.inFlight ++ queryContext st.context ++ [flagByte st.heard]

/-- STATION_QUERY as STT takes it (R45). -/
def takeStationQuery (tag : Byte) (body : List Byte) (s : State) : State :=
  let a := numAt body 0
  if stationAddress a then
    match station a s with
    | none => reply kindStationQuery tag .notEnrolled [] s
    | some st => reply kindStationQuery tag .ok (stationItems st) s
  else reply kindStationQuery tag .badArgument [] s

/-- STATION_QUERY (R45). -/
def execStationQuery (tag : Byte) (body : List Byte) (s : State) : Out :=
  request kindStationQuery tag body (takeStationQuery tag body) s

/-- A stranger entry as it is sent (R56). -/
def strangerBytes (x : Stranger) : List Byte := [oneByte x.address, x.cls, strangerReasonCode x.reason]

/-- STRANGERS as STT takes it (R56). -/
def takeStrangers (tag : Byte) (s : State) : State :=
  reply kindStrangers tag .ok (oneByte s.stt.strangers.length :: s.stt.strangers.flatMap strangerBytes)
    { s with stt.strangers := [] }

/-- STRANGERS (R56). -/
def execStrangers (tag : Byte) (body : List Byte) (s : State) : Out :=
  request kindStrangers tag body (takeStrangers tag) s

end Sys2Proof.Machine
end

