-- ==== Sys2Proof/Machine/Uplink.lean ====
section
/-! DEFINITION. The Uplink Receiver (spec/06): judging an UP slot and its DATA segment, reassembly, the inbox, and FETCH. -/

namespace Sys2Proof.Machine

/-! ### Outcomes of an in-sequence segment (R117, R118, R123) -/

/-- "The segment is acknowledged": last accepted u, expected u + 1 modulo 8, the busy-answer flag cleared (R117). -/
def acknowledgeIn (u : Seq) (st : Station) : Station :=
  { st with lastAccepted := some u, upExpected := u + 1, busyAnswer := false }

/-- A segment answered BUSY (R118). -/
def answerBusy (a : Nat) (s : State) : State :=
  onStation a (fun st => countIn .busyAnswersGiven { st with busyAnswer := true }) s

/-- A message completes into the inbox; into an empty one it offers UPLINK_READY (R123, R126). -/
def complete (a : Nat) (bytes : List Byte) (s : State) : State :=
  let entry : InboxEntry := { source := a, bytes := bytes, cycle := s.cye.cycle, arrival := s.ulr.arrival }
  let t := countGlobal .messagesCompleted (countStation a .messagesCompleted
    { s with ulr.inbox := s.ulr.inbox ++ [entry], ulr.arrival := s.ulr.arrival + 1 })
  if s.ulr.inbox.isEmpty then offer (.uplinkReady 1) t else t

/-- Step 6 of R117: the open context abandoned for a segment with first set, or the lent buffer opening one; the bytes
appended; the segment acknowledged; and the context completed by a segment with last set. -/
def acceptSegment (a : Nat) (st : Station) (seg : Segment) (s : State) : State :=
  let base : Context := if seg.first then { bytes := [], segments := 0 } else st.context.getD { bytes := [], segments := 0 }
  let ctx : Context := { bytes := base.bytes ++ seg.payload, segments := base.segments + 1 }
  let t := if st.context.isSome then s else lendUp s
  let u := if seg.first ∧ st.context.isSome then countStation a .contextsAbandoned t else t
  let v := onStation a (fun x => countIn .segmentsAccepted
    { acknowledgeIn seg.seq x with context := if seg.last then none else some ctx }) u
  if seg.last then complete a ctx.bytes v else v

/-- An in-sequence DATA segment: the first step of R117 whose condition holds. -/
def takeInSequence (a : Nat) (st : Station) (seg : Segment) (s : State) : State :=
  let ctx : Context := if seg.first then { bytes := [], segments := 0 } else st.context.getD { bytes := [], segments := 0 }
  let p := seg.payload.length
  if !seg.first ∧ st.context = none then
    onStation a (fun x => countIn .orphanSegments (acknowledgeIn seg.seq x)) s
  else if !seg.first ∧ (Config.bufferSize < ctx.bytes.length + p ∨ 8 < ctx.segments + 1) then
    onStation a (fun x => countIn .oversizeDiscards (acknowledgeIn seg.seq x)) (discardContext a s)
  else if seg.last ∧ ctx.bytes.length + p = 0 then
    onStation a (fun x => countIn .emptyMessages (acknowledgeIn seg.seq x)) (discardContext a s)
  else if seg.last ∧ Config.uplinkInbox ≤ s.ulr.inbox.length then
    countGlobal .inboxFullAnswers (answerBusy a s)
  else if seg.first ∧ st.context = none ∧ s.mpl.free = 0 then
    countGlobal .uplinkLendRefusals (answerBusy a s)
  else acceptSegment a st seg s

/-- A current DATA segment from a PRESENT owner: in sequence, duplicate or out of sequence (R116, R119, R120). -/
def takeData (a : Nat) (seg : Segment) (s : State) : State :=
  match station a s with
  | none => s
  | some st =>
    if seg.seq = st.upExpected then takeInSequence a st seg s
    else if st.lastAccepted = some seg.seq then
      onStation a (fun x => countIn .duplicates { x with busyAnswer := false }) s
    else onStation a (fun x => countIn .outOfSequence { x with busyAnswer := false }) s

/-! ### Judging an UP slot (R109 to R113) -/

/-- The answer a current segment carries (R113). -/
def answerOf (seg : Segment) : Answer := { ackValid := seg.ackValid, ackSeq := seg.ackSeq, busy := seg.busy }

/-- The two halves of a current segment's judgement: DLV takes the answer, and ULR takes the DATA of a PRESENT owner. They
are made in the same judgement and neither depends on the other (R113). Where both act, a free value orders them (log 5). -/
def judgeCurrent (a : Nat) (st : Station) (seg : Segment) (s : State) : State :=
  let answer := takeAnswer a (some (answerOf seg))
  if seg.kind = .data then
    if st.presence = .present then
      if (awaiting a s).isSome then
        let t := { s with choices := s.choices + 1 }
        if Config.eitherOrder s.choices then answer (takeData a seg t) else takeData a seg (answer t)
      else takeData a seg s
    else answer (countStation a .unjudgedDataSegments s)
  else answer s

/-- A GOOD segment in an UP slot of an enrolled owner: STRAY, STALE, misplaced or current (R110, R112). -/
def judgeGood (a : Nat) (st : Station) (seg : Segment) (s : State) : State :=
  if seg.address.toNat ≠ a then takeAnswer a none (countStation a .straySegments s)
  else if seg.echo ≠ s.cye.cycle then takeAnswer a none (countStation a .staleSegments s)
  else if seg.kind ≠ .data ∧ seg.kind ≠ .empty then takeAnswer a none (countStation a .misplacedSegments s)
  else judgeCurrent a st seg (onStation a (fun x => { x with heard := true }) s)

/-- An UP slot's class is judged for its owner (R109, R111). -/
def judgeUpSlot (a : Nat) (cls : RxClass) (s : State) : State :=
  match station a s with
  | none =>
    match cls with
    | .good _ => countGlobal .segmentsFromUnenrolled s
    | .silent | .late | .collided | .malformed | .crcBad => s
  | some st =>
    match cls with
    | .silent => takeAnswer a none (countStation a .silentUpSlots s)
    | .late => takeAnswer a none (countStation a .lateSegments s)
    | .collided | .malformed | .crcBad => takeAnswer a none (countStation a .damagedSegments s)
    | .good seg => judgeGood a st seg s

/-- LIF reports a receive part's class. A class settled before bit time 152 leaves SETTLED, with what LIF found; one settled
by the part's closing leaves LIF IDLE without a segment (R142). A part that is SILENT after at least one level change is
counted (R136). -/
def settle (slot : RxSlot) (r : Reception) (s : State) : State :=
  let t := { s with lif.line := if r.atClose then .idle else .receive slot (.settled r) }
  if r.cls = .silent ∧ r.noise then countGlobal .noiseSlots t else t

/-- LIF hears more of an open receive part: the class, once it settles, is reported, and the block the slot belongs to judges
it (R109, R142); until then LIF keeps what it has assembled, and nothing else happens (R129; log 15). -/
def takeReport (slot : RxSlot) (edges : List Edge) (upTo : Nat) (judge : RxClass → State → State) (s : State) :
    Option State :=
  match s.lif.line with
  | .receive which phase =>
    if which = slot ∧ partOpen phase then
      match hear edges upTo phase with
      | .settled r => some (judge r.cls (settle slot r s))
      | heard => some { s with lif.line := .receive slot heard }
    else none
  | .idle | .watch | .send _ _ => none

/-- The entry of the slot in progress: slot position i reads entry i − 1 of the active bank (R22). -/
def currentEntry (s : State) : Entry := entryAt s.sbk.active (s.cye.slot - 1)

/-- UP_SLOT_REPORT: LIF reports an UP slot's class, once, and ULR judges it (R109, R142). -/
def execUpSlotReport (edges : List Edge) (s : State) (upTo : Nat := 152000) : Out :=
  perform (takeReport .up edges upTo (judgeUpSlot (currentEntry s).owner) s) s

/-! ### FETCH (R124) -/

/-- The entry a FETCH takes: the oldest, or the oldest of a source (R124). -/
def fetchable (source : Option Nat) (e : InboxEntry) : Bool :=
  match source with
  | none => true
  | some a => e.source == a

/-- FETCH as ULR takes it (R124). -/
def takeFetch (tag : Byte) (body : List Byte) (s : State) : State :=
  let source : Option Nat := if body.isEmpty then none else some (numAt body 0)
  if source.all stationAddress then
    match s.ulr.inbox.find? (fetchable source) with
    | none => reply kindFetch tag .empty [oneByte s.ulr.inbox.length] s
    | some e =>
      let rest := s.ulr.inbox.eraseP (fetchable source)
      reply kindFetch tag .ok
        ([oneByte e.source] ++ twoBytes e.arrival.toNat ++
         [e.cycle, oneByte rest.length, oneByte (rest.countP fun x => x.source == e.source), oneByte e.bytes.length] ++
         e.bytes)
        (returnUp { s with ulr.inbox := rest })
  else reply kindFetch tag .badArgument [] s

/-- FETCH (R124). -/
def execFetch (tag : Byte) (body : List Byte) (s : State) : Out := request kindFetch tag body (takeFetch tag body) s

end Sys2Proof.Machine
end

