-- ==== Sys2Proof/Machine/Admission.lean ====
section
/-! DEFINITION. The Admission Unit (spec/04): resolving an ADMIT slot. -/

namespace Sys2Proof.Machine

/-- The admission result for the next beacon (R63). -/
def setAdmission (r : AdmitResult) (echo : Nat) (s : State) : State := { s with adm := { result := r, echo := echo } }

/-- The station class of a valid JOIN: the low four bits of its first payload byte (R66). -/
def joinClass (seg : Segment) : Byte := byteAt seg.payload 0 &&& 0x0F

/-- A GOOD segment in an ADMIT slot is a valid JOIN (R66). -/
def validJoin (seg : Segment) (s : State) : Bool :=
  decide (seg.kind = .join) && stationAddress seg.address.toNat && decide (seg.payload.length = 2) &&
  decide (seg.echo = s.cye.cycle)

/-- The record's class matches the reported one (R68). -/
def classMatches (expected : StationClass) (reported : Byte) : Bool :=
  match expected with
  | .any => true
  | .is c => decide (c = reported)

/-- The record of an accepted joiner: ACQUIRING, counts 0, sequences reset (R69 to R71). -/
def joined (st : Station) : Station :=
  resetSequences { st with presence := .acquiring, good := 0, miss := 0 }

/-- A valid JOIN of matching class, by the presence it finds (R69 to R71). -/
def acceptJoin (a : Nat) (cls : Byte) (st : Station) (s : State) : State :=
  let t := setAdmission .accepted a s
  match st.presence with
  | .absent => offer (.joinHeard a cls) (onStation a (fun x => countIn .joinsAccepted (joined x)) t)
  | .acquiring => onStation a (fun x => countIn .joinsAccepted (joined x)) t
  | .present =>
    offer (.restarted a) (discardContext a
      (onStation a (fun x => countIn .restarts (countIn .joinsAccepted (rewindStation (joined x)))) t))

/-- A valid JOIN resolved against the station table (R67, R68). -/
def resolveJoin (a : Nat) (cls : Byte) (s : State) : State :=
  match station a s with
  | none =>
    countGlobal .joinsRefusedUnknown (addStranger a cls .unknown (setAdmission .refusedUnknown a s))
  | some st =>
    if classMatches st.cls cls then acceptJoin a cls st s
    else countStation a .joinsRefusedForClass (addStranger a cls .cls (setAdmission .refusedClass a s))

/-- An ADMIT slot resolved from its receive class (R64 to R66). -/
def resolveAdmit (cls : RxClass) (s : State) : State :=
  match cls with
  | .silent => setAdmission .none 0 s
  | .late => countGlobal .admitLate (setAdmission .none 0 s)
  | .collided | .crcBad | .malformed => countGlobal .admitCollisions (setAdmission .collided 0 s)
  | .good seg =>
    if validJoin seg s then resolveJoin seg.address.toNat (joinClass seg) s
    else countGlobal .admitInvalid (setAdmission .none 0 s)

/-- ADMIT_SLOT_REPORT: LIF reports an ADMIT slot's class, once, and ADM resolves it (R64, R142). -/
def execAdmitSlotReport (edges : List Edge) (s : State) (upTo : Nat := 152000) : Out :=
  perform (takeReport .admission edges upTo resolveAdmit s) s

end Sys2Proof.Machine
end

