-- ==== Sys2Proof/Machine/Cycle.lean ====
section
/-! DEFINITION. The Cycle Engine (spec/01): the beacon, slots and the cycle end, START and STOP, the echo streak and the bus
fault, and the line events that reach the engine. -/

namespace Sys2Proof.Machine

/-! ### The beacon (R4, R73) -/

/-- The beacon's flags byte: "admission result present" and "admission collided" (R73). -/
def admitFlags : AdmitResult → Byte
  | .none => 0
  | .accepted | .refusedUnknown | .refusedClass => 1
  | .collided => 3

/-- The beacon of the state at its slot start (R4). -/
def beacon (s : State) : Segment :=
  { kind := .beacon, address := 0, seq := 0, first := true, last := true, ackValid := false, busy := false, ackSeq := 0,
    echo := s.cye.cycle,
    payload := [s.cye.cycle, s.sbk.epoch, oneByte s.sbk.active.length, admitFlags s.adm.result, oneByte s.adm.echo,
                admitResultCode s.adm.result] }

/-- A beacon slot begins: the beacon is handed over, the admission result consumed and the cycle counted (R4, R73). -/
def beginCycle (cycle : Byte) (s : State) : State :=
  let t := { s with cye.cycle := cycle, cye.slot := 0 }
  setAdmission .none 0 (countGlobal .cyclesBegun (handOver (beacon t) t))

/-! ### Slots (R3, R6) -/

/-- The engine serves slots (spec/01, 1.1). -/
def inRun (s : State) : Bool := decide (s.cye.state = .running ∨ s.cye.state = .halting)

/-- LIF's work in the slot in progress is over, so that the slot can end: nothing is being sent, and a receive part has been
reported; one still in SETTLED closes before the slot ends (R129, R135, R142; log 13). -/
def lineFree (s : State) : Bool :=
  match s.lif.line with
  | .idle => true
  | .receive _ phase => !partOpen phase
  | .send _ _ => false
  | .watch => false

/-- A schedule slot starts and is dispatched by its entry (R6). -/
def startSlot (s : State) : State :=
  let t := { s with cye.slot := s.cye.slot + 1 }
  match (entryAt s.sbk.active s.cye.slot).kind with
  | .idle => { t with lif.line := .idle }
  | .down => downSlot (entryAt s.sbk.active s.cye.slot).owner t
  | .up => { t with lif.line := .receive .up (.wait []) }
  | .admission => { t with lif.line := .receive .admission (.wait []) }

/-- SLOT_START: the next schedule slot of a cycle, while slots are left (R3, R6). -/
def execSlotStart (s : State) : Out :=
  perform (if inRun s ∧ lineFree s ∧ s.cye.slot < s.sbk.active.length then some (startSlot s) else none) s

/-! ### The cycle end and the stop completion (R7, R8, R14) -/

/-- The cycle end in RUNNING: presence on the ended cycle's bank, then the swap, then the next beacon (R7). -/
def endCycle (s : State) : State :=
  let t := evaluatePresence s
  beginCycle (s.cye.cycle + 1) (joinEither none (commitReply t) (swapPending t))

/-- CYCLE_END: the end of slot N in RUNNING (R7). -/
def execCycleEnd (s : State) : Out :=
  perform (if s.cye.state = .running ∧ lineFree s ∧ s.cye.slot = s.sbk.active.length then some (endCycle s) else none) s

/-- The deferred reply a pending STOP is owed (R15). -/
def stopReply (s : State) (st : Status) : Option Frame := deferredFrame s.cye.stop kindStop st []

/-- The deferred reply a pending START is owed (R15). -/
def startReply (s : State) (st : Status) : Option Frame := deferredFrame s.cye.start kindStart st []

/-- The stop completion: STOPPED, slot position 0, the line idle, the run left, a pending commit swapped, STOP answered (R8). -/
def completeStop (s : State) : State :=
  let t := leaveRun
    { s with cye.state := .stopped, cye.slot := 0, cye.stop := none, lif.line := .idle }
  joinEither (stopReply s .ok) (commitReply s) (swapPending t)

/-- STOP_COMPLETION: the cycle end in HALTING (R8). -/
def execStopCompletion (s : State) : Out :=
  perform (if s.cye.state = .halting ∧ lineFree s ∧ s.cye.slot = s.sbk.active.length then some (completeStop s)
    else none) s

/-! ### START and the listening interval (R9, R10, R143) -/

/-- START as the engine takes it (R9); LIF watches the line (R143). -/
def takeStart (tag : Byte) (s : State) : State :=
  match s.cye.state with
  | .stopped =>
    { s with cye.state := .listening, cye.start := some { tag := tag, forgotten := false }, cye.cycle := 0,
             cye.streak := 0, cye.cause := .none, cye.deadline := some (cycleLength s.rex.config s.sbk.active),
             lif.line := .watch }
  | .listening => reply kindStart tag .busy [] s
  | .running | .halting => reply kindStart tag .state [] s

/-- START (R9). -/
def execStart (tag : Byte) (body : List Byte) (s : State) : Out := request kindStart tag body (takeStart tag) s

/-- The listening expiry: RUNNING, a pending commit swapped, cycle 0 begun, START answered OK (R10). -/
def beginRun (s : State) : State :=
  let t := swapPending { s with cye.state := .running, cye.deadline := none, cye.start := none }
  beginCycle 0 (joinEither (startReply s .ok) (commitReply s) t)

/-- LISTENING_EXPIRY: the deadline expires before carrier (R10). -/
def execListeningExpiry (s : State) : Out :=
  perform (if s.cye.state = .listening then some (beginRun s) else none) s

/-- LISTENING ends without a run: STOPPED, the deadline cleared, the record gone, LIF idle (R10, R11, R143). -/
def endListening (s : State) : State :=
  { s with cye.state := .stopped, cye.deadline := none, cye.start := none, lif.line := .idle }

/-- CARRIER: a level change on BRX in LISTENING (R10). In any other state a level change is not carrier (R10, R143). -/
def execCarrier (s : State) : Out :=
  perform (if s.cye.state = .listening then
    some (joinEither (startReply s .lineBusy) none (countGlobal .listenRefusals (endListening s))) else none) s

/-! ### STOP (R11) -/

/-- STOP as the engine takes it (R11). -/
def takeStop (tag : Byte) (s : State) : State :=
  match s.cye.state with
  | .stopped => reply kindStop tag .ok [] s
  | .listening => reply kindStop tag .ok [] (joinEither (startReply s .cancelled) none (endListening s))
  | .running => { s with cye.state := .halting, cye.stop := some { tag := tag, forgotten := false } }
  | .halting => reply kindStop tag .busy [] s

/-- STOP (R11). -/
def execStop (tag : Byte) (body : List Byte) (s : State) : Out := request kindStop tag body (takeStop tag) s

/-! ### The ends of a transmission (R12, R13, R133, R134) -/

/-- TRANSMISSION_COMPLETED: BDE is released at the end of LAG and the streak becomes 0 (R12, R133). The command stands for
that instant, whichever phase the ticks have reached (log 6). -/
def execTransmissionCompleted (s : State) : Out :=
  perform (match s.lif.line with
    | .send _ _ => some (countGlobal .transmissionsCompleted { s with lif.line := .idle, cye.streak := 0 })
    | .idle | .watch | .receive _ _ => none) s

/-- The fault cause of an aborted transmission (R12). The head-end sends no JOIN. -/
def causeOf : SegKind → FaultCause
  | .beacon => .echoBeacon
  | .data => .echoData
  | .empty => .echoEmpty
  | .join => .none

/-- A bus fault: the cause, the counter and the notice, then the stop completion (R12). -/
def busFault (kind : SegKind) (s : State) : State :=
  completeStop (offer (.busFault s.cye.streak s.cye.cycle)
    (countGlobal .busFaults { s with cye.cause := causeOf kind }))

/-- An echo mismatch: LIF aborts the segment, and the streak rises, to a bus fault at the configured count (R12, R134). -/
def abortSegment (seg : Segment) (s : State) : State :=
  let t := countGlobal .echoMismatches { s with lif.line := .idle, cye.streak := s.cye.streak + 1 }
  if t.cye.streak = s.rex.config.faultStreak then busFault seg.kind t else t

/-- ECHO_MISMATCH: the sample of a cell LIF sends, one that is not past, differs from the level it drives (R134; log 6). -/
def execEchoMismatch (cell : Nat) (secondHalf level : Bool) (s : State) : Out :=
  perform (match s.lif.line with
    | .send seg phase =>
      if sampleAhead phase cell secondHalf ∧ drivenLevel seg cell secondHalf = some (!level) then
        some (abortSegment seg s)
      else none
    | .idle | .watch | .receive _ _ => none) s

/-! ### The passage of time on the line (R133, R142) -/

/-- The line state one tick on: SEND moves to its next half cell or phase and waits in LAG for its completion; a receive part
that has been reported closes, and LIF is IDLE without a segment (R129, R133, R142). -/
def tickLine : LineState → LineState
  | .send seg phase => .send seg (nextSendPhase (segmentCells seg).length phase)
  | .receive slot phase => if partOpen phase then .receive slot phase else .idle
  | .idle => .idle
  | .watch => .watch

/-- A tick: what the mere passage of time does where no command waits (DESIGN CHOICE, log 2). -/
def tick (s : State) : State := if held s then s else { s with lif.line := tickLine s.lif.line }

end Sys2Proof.Machine
end

