-- ==== Sys2Proof/Machine/Link.lean ====
section
/-! DEFINITION. The Host Link (spec/08): the character and frame receivers, REJECT, the gap timer, and the end of a frame on
TXD. -/

namespace Sys2Proof.Machine

/-! ### The frame receiver (R149 to R153, R157) -/

/-- A character is being received, so that one may be taken or fail (R149). -/
def inCharacter (s : State) : Bool := decide (s.hlk.chr = .inCharacter)

/-- A byte has been taken and the frame receiver stands in a new state: the gap timer restarts in LENGTH, BODY and CHECK
and stops in HUNT (R151 to R153); the character receiver looks for the next falling edge (R149). -/
def afterByte (rx : FrameRx) (s : State) : State :=
  { s with hlk.rx := rx, hlk.gap := if rx = .hunt then .stopped else .running, hlk.chr := .ready }

/-- The receiver state after a byte that opens, extends or fills a partial frame, or is held as the first check byte; none
for a byte of another row (R151 to R153). -/
def extendFrame (b : Byte) : FrameRx → Option FrameRx
  | .hunt => if b = marker then some .length else none
  | .length => if 2 ≤ b.toNat ∧ b.toNat ≤ 250 then some (.body b.toNat [] (frameCheckByte frameCheckStart b)) else none
  | .body len bytes check =>
    if bytes.length + 1 < len then some (.body len (bytes ++ [b]) (frameCheckByte check b))
    else some (.check len (bytes ++ [b]) (frameCheckByte check b) none)
  | .check len bytes computed none => some (.check len bytes computed (some b))
  | .check _ _ _ (some _) => none

/-- FRAME_BYTE_TAKEN (R151 to R153). -/
def execFrameByteTaken (b : Byte) (s : State) : Out :=
  perform (if inCharacter s then (extendFrame b s.hlk.rx).map fun rx => afterByte rx s else none) s

/-- HUNT_BYTE_DISCARDED: a byte other than the marker in HUNT (R151). -/
def execHuntByteDiscarded (b : Byte) (s : State) : Out :=
  perform (if inCharacter s ∧ s.hlk.rx = .hunt ∧ b ≠ marker then
    some (countGlobal .huntBytesDiscarded (afterByte .hunt s)) else none) s

/-- LENGTH_ERROR: a length byte outside 2 to 250 (R152). -/
def execLengthError (b : Byte) (s : State) : Out :=
  perform (if inCharacter s ∧ s.hlk.rx = .length ∧ (b.toNat < 2 ∨ 250 < b.toNat) then
    some (countGlobal .lengthErrors (afterByte .hunt s)) else none) s

/-- The frame that a second check byte completes, with whether its check is good (R153, R155, R156). -/
def completedFrame (b : Byte) (rx : FrameRx) : Option (Request × Bool) :=
  match rx with
  | .check _ bytes computed (some high) =>
    some ({ kind := byteAt bytes 0, tag := byteAt bytes 1, body := bytes.drop 2 }, decide (high ++ b = computed))
  | _ => none

/-- REX takes a good frame: it joins the inbox, or is refused with INBOX_FULL (R163). -/
def acceptFrame (r : Request) (s : State) : State :=
  if s.rex.inbox.length < Config.requestInbox ∧ s.rex.openCount < Config.openRequests then
    countGlobal .requestsAccepted
      { s with rex.inbox := s.rex.inbox ++ [r], rex.openCount := s.rex.openCount + 1 }
  else
    refuse (replyFrame r.kind r.tag .inboxFull []) (some .inboxFullReplies) (some .inboxFullRepliesDropped) s

/-- GOOD_FRAME: the second check byte completes a frame whose check is good (R155). -/
def execGoodFrame (b : Byte) (s : State) : Out :=
  perform (match inCharacter s, completedFrame b s.hlk.rx with
    | true, some (r, true) => some (acceptFrame r (countGlobal .framesReceived (afterByte .hunt s)))
    | _, _ => none) s

/-- CHECK_ERROR: the second check byte completes a damaged frame (R156). -/
def execCheckError (b : Byte) (s : State) : Out :=
  perform (match inCharacter s, completedFrame b s.hlk.rx with
    | true, some (r, false) =>
      some (refuse (rejectFrame r.kind r.tag) none (some .rejectsDropped)
        (countGlobal .checkErrors (afterByte .hunt s)))
    | _, _ => none) s

/-- The partial frame, if any, is discarded and the receiver is in HUNT with the gap timer stopped (R157). -/
def dropPartial (s : State) : State := { s with hlk.rx := .hunt, hlk.gap := .stopped }

/-- GAP_TIMEOUT: the gap timer, running, expires (R157). -/
def execGapTimeout (s : State) : Out :=
  perform (if s.hlk.gap = .running then some (countGlobal .gapTimeouts (dropPartial s)) else none) s

/-- CHARACTER_ERROR: a low stop bit, and RXD high again before the break threshold (R149, R157). -/
def execCharacterError (s : State) : Out :=
  perform (if inCharacter s then some (countGlobal .characterErrors { dropPartial s with hlk.chr := .ready }) else none) s

/-- BREAK: RXD still low 2 character times after the falling edge (R149, R157). -/
def execBreak (s : State) : Out :=
  perform (if inCharacter s then some (countGlobal .breaks { dropPartial s with hlk.chr := .waitHigh }) else none) s

/-- A character begins; a running gap timer is held still (R149, R157). -/
def beginCharacter (s : State) : State :=
  { s with hlk.chr := .inCharacter, hlk.gap := if s.hlk.gap = .running then .held else s.hlk.gap }

/-- CHARACTER_START_EDGE: a falling edge after RXD has been high; a high sample half a bit time later makes it a glitch,
which is ignored (R149). -/
def execCharacterStartEdge (high : Bool) (s : State) : Out :=
  perform (if s.hlk.chr = .ready ∧ high = false then some (beginCharacter s) else none) s

/-- RXD_RETURNS_HIGH: after a break, or first after power-on or a pin reset, the receiver looks for a falling edge (R149). -/
def execRxdReturnsHigh (s : State) : Out :=
  perform (if s.hlk.chr = .waitHigh then some { s with hlk.chr := .ready } else none) s

/-! ### The end of a frame on TXD (R158, R164, R185, R187, R189) -/

/-- The oldest frame of the reply queue has been sent whole: it leaves, closing its request or freeing its refusal place;
after a RESET reply the reset takes effect next (R164, R177, R187). -/
def replySent (s : State) : State :=
  match s.ntq.replies with
  | [] => s
  | r :: rest =>
    let t := countGlobal .repliesSent { s with ntq.replies := rest }
    match r.place with
    | .request => { t with rex.openCount := t.rex.openCount - 1 }
    | .refusal => { t with ntq.refusals := t.ntq.refusals - 1 }
    | .reset =>
      { t with rex.openCount := t.rex.openCount - 1,
               rex.resetInHand := t.rex.resetInHand.map fun r => { r with replySent := true } }

/-- The head notice has been sent whole and leaves the queue (R189, R191). -/
def noticeSent (s : State) : State :=
  attnOnLeave (countGlobal .noticesSent { s with ntq.notices := s.ntq.notices.tail })

/-- An OVERFLOW frame has been sent whole: a marker with count 0 leaves the queue (R185, R191). -/
def overflowSent (s : State) : State :=
  attnOnLeave (countGlobal .overflowNoticesSent (countGlobal .noticesSent
    { s with ntq.marker := if s.ntq.marker = some 0 then none else s.ntq.marker }))

/-- The frame in progress has been sent whole (R158). -/
def frameSent (src : TxSource) (s : State) : State :=
  match src with
  | .startUp => s
  | .reply => replySent s
  | .notice => noticeSent s
  | .overflow => overflowSent s

/-- FRAME_SENT: the last check byte of the frame in progress has been sent (R158). -/
def execFrameSent (s : State) : Out :=
  perform (s.ntq.tx.map fun f => frameSent f.source { s with ntq.tx := none }) s

/-- The bytes the transmitter is sending, marker to check (R158). -/
def outboundBytes (s : State) : Option (List Byte) := s.ntq.tx.map fun f => wireBytes f.frame

/-- The levels of a run of bytes on TXD, one for each bit time of the link: their characters back to back (R148, R158). -/
def txBits (bytes : List Byte) : List Bool := bytes.flatMap characterBits

/-- The level of TXD so many bit times of the link after the frame in progress began: the frame's own levels, and the idle
level, high, past its end, without a frame, and while RESETn is low (R148, R158, R161). -/
def txdAt (s : State) (bitTime : Nat) : Bool :=
  if s.resetLow then true
  else match outboundBytes s with
    | some bytes => (txBits bytes).getD bitTime true
    | none => true

/-! ### ATTN (R192) -/

/-- ATTN_PULSE_EXPIRY: the pulse timer runs out and ATTN is released (R192). -/
def execAttnPulseExpiry (s : State) : Out :=
  perform (if s.ntq.pulse.isSome then some { s with ntq.pulse := none, ntq.attn := false } else none) s

end Sys2Proof.Machine
end

