-- ==== Sys2Proof/Machine/Requests.lean ====
section
/-! DEFINITION. The Request Executor's own requests (spec/09) and GRANT (R186). -/

namespace Sys2Proof.Machine

/-- The items of an IDENTIFY reply (R169). -/
def identityItems : List Byte :=
  [0x6B, 0x01, 0x30, 0x01, 30, 60, 48, 64, 32, 8, 16, 4, 8, 23]

/-- IDENTIFY (R169). -/
def execIdentify (tag : Byte) (body : List Byte) (s : State) : Out :=
  request kindIdentify tag body (reply kindIdentify tag .ok identityItems) s

/-- The items of a STATUS reply (R170, spec/11, 11.5). -/
def statusItems (s : State) : List Byte :=
  [engineStateCode s.cye.state, s.cye.cycle, oneByte s.cye.streak, faultCauseCode s.cye.cause, s.sbk.epoch,
   oneByte s.sbk.active.length, oneByte s.ntq.credits, oneByte s.mpl.free, oneByte s.mpl.down, oneByte s.mpl.up,
   oneByte s.ulr.inbox.length, oneByte s.rex.openCount]

/-- STATUS (R170). -/
def execStatus (tag : Byte) (body : List Byte) (s : State) : Out :=
  request kindStatus tag body (fun t => reply kindStatus tag .ok (statusItems t) t) s

/-- Good and miss counts above a lowered limit come down to it (R51). -/
def limitCounts (c : Settings) (st : Station) : Station :=
  { st with good := min st.good c.lockIn, miss := min st.miss c.lockOut }

/-- The ATTN output at a change of mode (R192). -/
def changeAttnMode (old new : AttnMode) (s : State) : State :=
  match old, new with
  | .level, .pulse => { s with ntq.attn := false }
  | .pulse, .level => { s with ntq.pulse := none, ntq.attn := !noticeQueueEmpty s }
  | .level, .level => s
  | .pulse, .pulse => s

/-- The nine settings take their new values together (R171, R51, R192). -/
def applySettings (c : Settings) (s : State) : State :=
  changeAttnMode s.rex.config.attnMode c.attnMode (onStations (limitCounts c) { s with rex.config := c })

/-- CONFIGURE as REX takes it (R171). -/
def takeConfigure (tag : Byte) (body : List Byte) (s : State) : State :=
  if s.cye.state = .stopped then
    match settingsOf body with
    | some c => reply kindConfigure tag .ok [] (applySettings c s)
    | none => reply kindConfigure tag .badArgument [] s
  else reply kindConfigure tag .state [] s

/-- CONFIGURE (R171). -/
def execConfigure (tag : Byte) (body : List Byte) (s : State) : Out :=
  request kindConfigure tag body (takeConfigure tag body) s

/-- READ_CONFIG (R172). -/
def execReadConfig (tag : Byte) (body : List Byte) (s : State) : Out :=
  request kindReadConfig tag body (fun t => reply kindReadConfig tag .ok (settingsBytes t.rex.config) t) s

/-- COUNTERS as REX takes it: the set is read, and cleared after the read where the flag says so (R173). -/
def takeCounters (tag : Byte) (body : List Byte) (s : State) : State :=
  let sel := numAt body 0
  match flagOf (byteAt body 1) with
  | none => reply kindCounters tag .badArgument [] s
  | some clear =>
    if sel = 0 then
      reply kindCounters tag .ok (byteAt body 0 :: counterBytes s.counters)
        (if clear then { s with counters := Vector.replicate 39 0 } else s)
    else if stationAddress sel then
      match station sel s with
      | none => reply kindCounters tag .notEnrolled [] s
      | some st =>
        reply kindCounters tag .ok (byteAt body 0 :: counterBytes st.counters)
          (if clear then onStation sel (fun x => { x with counters := Vector.replicate 31 0 }) s else s)
    else reply kindCounters tag .badArgument [] s

/-- COUNTERS (R173). -/
def execCounters (tag : Byte) (body : List Byte) (s : State) : Out :=
  request kindCounters tag body (takeCounters tag body) s

/-- The items of a RESET reply: the downlink-held count for BUS, nothing else for FULL and LINK (R177, R178). -/
def resetItems (scope : Scope) (s : State) : List Byte :=
  match scope with
  | .bus => [oneByte s.mpl.down]
  | .full | .link => []

/-- RESET as REX takes it: the reset in hand takes the scope and the reply joins (R177). -/
def takeReset (tag : Byte) (body : List Byte) (s : State) : State :=
  match scopeOf (byteAt body 0) with
  | none => reply kindReset tag .badArgument [] s
  | some scope =>
    joinReplies (replyFrame kindReset tag .ok (resetItems scope s)) .reset
      { s with rex.resetInHand := some { scope := scope, replySent := false } }

/-- RESET (R177). -/
def execReset (tag : Byte) (body : List Byte) (s : State) : Out := request kindReset tag body (takeReset tag body) s

/-- UNKNOWN_REQUEST_KIND: a taken request whose kind lies outside 0x01 to 0x15 is answered BAD_KIND, whatever its length (R165). -/
def execUnknownRequestKind (kind tag : Byte) (body : List Byte) (s : State) : Out :=
  perform (match s.rex.inbox with
    | r :: rest =>
      if s.rex.resetInHand = none ∧ r = { kind := kind, tag := tag, body := body } ∧ !namesRequest kind then
        some (reply kind tag .badKind [] { s with rex.inbox := rest })
      else none
    | [] => none) s

/-- GRANT as NTQ takes it (R186). -/
def takeGrant (tag : Byte) (body : List Byte) (s : State) : State :=
  let n := numAt body 0
  if n = 0 then reply kindGrant tag .badArgument [] s
  else
    let credits := min (s.ntq.credits + n) Config.creditMax
    reply kindGrant tag .ok [oneByte credits] { s with ntq.credits := credits }

/-- GRANT (R186). -/
def execGrant (tag : Byte) (body : List Byte) (s : State) : Out := request kindGrant tag body (takeGrant tag body) s

end Sys2Proof.Machine
end

