-- ==== Sys2Proof/Machine/Resets.lean ====
section
/-! DEFINITION. Power-on, the pin reset and the three scopes of RESET (R16 to R20, R37, R60 to R62, R76, R104 to R106, R128,
R145, R159, R178 to R181, R190, R193). -/

namespace Sys2Proof.Machine

/-- Every block at its power-on values, with the host link and the start-up frame owed as given; the model's own fields are
kept (R1, R21, R38, R63, R77, R86, R107, R129, R162, R182). -/
def resetBlocks (hlk : Hlk) (startUp : Option Cause) (resetLow : Bool) (s : State) : State :=
  { cye := Cye.reset, sbk := Sbk.reset, stt := Stt.reset, adm := Adm.reset, mpl := Mpl.reset, dlv := Dlv.reset,
    ulr := Ulr.reset, lif := Lif.reset, hlk := hlk, rex := Rex.reset, ntq := Ntq.reset startUp,
    counters := Vector.replicate 39 0, resetLow := resetLow, choices := s.choices, pending := s.pending }

/-- POWER_ON: every block takes its power-on values, the straps are sampled, and the start-up frame with cause POWER starts
(R16, R148, R190). DESIGN CHOICE (log 19): power-on with RESETn held low does the same, with RESETn taken as high. -/
def execPowerOn (rate1 rate0 : Bool) (s : State) : Out :=
  .next (arbitrate (resetBlocks (Hlk.reset (strapRate rate1 rate0)) (some .power) false s))

/-- PIN_RESET: RESETn is released; as at power-on, with cause PIN (R16, R148, R190). -/
def execPinReset (rate1 rate0 : Bool) (s : State) : Out :=
  .next (arbitrate (resetBlocks (Hlk.reset (strapRate rate1 rate0)) (some .pin) false s))

/-- RESETn has been low long enough for a pin reset: at least 1 µs (R161). -/
def resetHolds (nanoseconds : Nat) : Bool := decide (1000 ≤ nanoseconds)

/-- RESETN_LOW: a low of less than 1 µs has no effect (R161); once RESETn has been low for 1 µs the part is in reset and is held
there; the straps are not sampled and no start-up frame is owed before the release (R16, R159, R161, R193; log 14). -/
def execResetnLow (s : State) (nanoseconds : Nat := 1000) : Out :=
  if resetHolds nanoseconds then .next (resetBlocks (Hlk.reset s.hlk.rate) none true s) else .next s

/-- A reset that a RESET request asked for takes effect, once the RESET reply has been sent whole (R177). -/
def takeEffect (scope : Scope) (effect : State → State) (s : State) : Out :=
  if s.resetLow = false ∧ s.rex.resetInHand = some { scope := scope, replySent := true } then
    .next (arbitrate (effect s))
  else .next s

/-- A character in reception is dropped, and the receiver waits for RXD to be high (R149, R159). -/
def dropCharacter (c : CharRx) : CharRx :=
  match c with
  | .inCharacter => .waitHigh
  | .waitHigh => .waitHigh
  | .ready => .ready

/-- The host link after a FULL or LINK reset: HUNT, no partial frame, the rate kept (R159). -/
def resetLink (h : Hlk) : Hlk := { rate := h.rate, rx := .hunt, gap := .stopped, chr := dropCharacter h.chr }

/-- FULL_RESET: every block as at power-on, the link rate kept, cause FULL (R17, R180, R190). -/
def execFullReset (s : State) : Out :=
  takeEffect .full (fun t => resetBlocks (resetLink t.hlk) (some .full) false t) s

/-- A record at a BUS reset: ABSENT with counts 0, sequences reset, not heard, queue, in-flight record and context gone; its
settings and counters kept (R61, R105, R128). -/
def busResetRecord (st : Station) : Station :=
  resetSequences { st with presence := .absent, good := 0, miss := 0, heard := false, queue := [], inFlight := none,
                           context := none }

/-- The BUS reset on the blocks: the engine stopped, stations ABSENT, queues, contexts and inbox cleared, every buffer free,
a pending commit withdrawn, the line idle (R18, R37, R61, R76, R86, R105, R128, R145, R193). -/
def busResetBlocks (s : State) : State :=
  let t := onStations busResetRecord s
  { t with
    cye := { s.cye with state := .stopped, slot := 0, streak := 0, deadline := none, start := none, stop := none },
    sbk.commit := none,
    adm := { result := .none, echo := 0 },
    mpl := { free := 48, down := 0, up := 0, handleCounter := s.mpl.handleCounter, messages := [] },
    dlv := { queue := [], inFlight := none, next := 0 },
    ulr.inbox := [],
    lif := { line := .idle },
    rex.resetInHand := none,
    ntq.startUp := some .bus }

/-- The ABANDONED reply of a pending START or STOP; the two never stand together (R15, R18). -/
def abandonedEngineReply (s : State) : Option Frame :=
  match startReply s .abandoned with
  | some f => some f
  | none => stopReply s .abandoned

/-- BUS_RESET: the blocks, then the ABANDONED replies, in any order between them (R18, R37, R178). -/
def execBusReset (s : State) : Out :=
  takeEffect .bus (fun t => joinEither (abandonedEngineReply t)
    (deferredFrame t.sbk.commit kindSchedCommit .abandoned []) (busResetBlocks t)) s

/-- A pending record is forgotten (R19, R37). -/
def forget (d : Option Deferred) : Option Deferred := d.map fun r => { r with forgotten := true }

/-- LINK_RESET: inbox, open requests, reply queue, notice queue, marker and credits emptied, ATTN released, the frame
receiver in HUNT, pending records forgotten, cause LINK; the bus goes on (R19, R37, R159, R179, R193). -/
def execLinkReset (s : State) : Out :=
  takeEffect .link (fun t =>
    { t with
      cye.start := forget t.cye.start, cye.stop := forget t.cye.stop, sbk.commit := forget t.sbk.commit,
      hlk := resetLink t.hlk,
      rex := { inbox := [], openCount := 0, resetInHand := none, config := t.rex.config },
      ntq := Ntq.reset (some .link) }) s

end Sys2Proof.Machine
end

