-- ==== Sys2Proof/Machine/Dispatch.lean ====
section
/-! DEFINITION. One arm per command: its meaning. Every command has one. -/

namespace Sys2Proof.Machine

/-- The effect of a command on everything but the queue of waiting commands. -/
def exec (i : Instr) (s : State) : Host.Outcome State Fault Refusal :=
  match i with
  | .powerOn rate1 rate0 => Sys2Proof.Machine.execPowerOn rate1 rate0 s
  | .pinReset rate1 rate0 => Sys2Proof.Machine.execPinReset rate1 rate0 s
  | .identify tag body => Sys2Proof.Machine.execIdentify tag body s
  | .status tag body => Sys2Proof.Machine.execStatus tag body s
  | .configure tag body => Sys2Proof.Machine.execConfigure tag body s
  | .readConfig tag body => Sys2Proof.Machine.execReadConfig tag body s
  | .counters tag body => Sys2Proof.Machine.execCounters tag body s
  | .reset tag body => Sys2Proof.Machine.execReset tag body s
  | .unknownRequestKind kind tag body => Sys2Proof.Machine.execUnknownRequestKind kind tag body s
  | .start tag body => Sys2Proof.Machine.execStart tag body s
  | .stop tag body => Sys2Proof.Machine.execStop tag body s
  | .schedEdit tag body => Sys2Proof.Machine.execSchedEdit tag body s
  | .schedRead tag body => Sys2Proof.Machine.execSchedRead tag body s
  | .schedCommit tag body => Sys2Proof.Machine.execSchedCommit tag body s
  | .enroll tag body => Sys2Proof.Machine.execEnroll tag body s
  | .retire tag body => Sys2Proof.Machine.execRetire tag body s
  | .stationQuery tag body => Sys2Proof.Machine.execStationQuery tag body s
  | .strangers tag body => Sys2Proof.Machine.execStrangers tag body s
  | .send tag body => Sys2Proof.Machine.execSend tag body s
  | .cancel tag body => Sys2Proof.Machine.execCancel tag body s
  | .flush tag body => Sys2Proof.Machine.execFlush tag body s
  | .msgStatus tag body => Sys2Proof.Machine.execMsgStatus tag body s
  | .fetch tag body => Sys2Proof.Machine.execFetch tag body s
  | .grant tag body => Sys2Proof.Machine.execGrant tag body s
  | .goodFrame byte => Sys2Proof.Machine.execGoodFrame byte s
  | .checkError byte => Sys2Proof.Machine.execCheckError byte s
  | .lengthError byte => Sys2Proof.Machine.execLengthError byte s
  | .huntByteDiscarded byte => Sys2Proof.Machine.execHuntByteDiscarded byte s
  | .gapTimeout => Sys2Proof.Machine.execGapTimeout s
  | .characterError => Sys2Proof.Machine.execCharacterError s
  | .breakDetected => Sys2Proof.Machine.execBreak s
  | .frameSent => Sys2Proof.Machine.execFrameSent s
  | .fullReset => Sys2Proof.Machine.execFullReset s
  | .busReset => Sys2Proof.Machine.execBusReset s
  | .linkReset => Sys2Proof.Machine.execLinkReset s
  | .attnPulseExpiry => Sys2Proof.Machine.execAttnPulseExpiry s
  | .listeningExpiry => Sys2Proof.Machine.execListeningExpiry s
  | .carrier => Sys2Proof.Machine.execCarrier s
  | .slotStart => Sys2Proof.Machine.execSlotStart s
  | .transmissionCompleted => Sys2Proof.Machine.execTransmissionCompleted s
  | .echoMismatch cell secondHalf level => Sys2Proof.Machine.execEchoMismatch cell secondHalf level s
  | .cycleEnd => Sys2Proof.Machine.execCycleEnd s
  | .stopCompletion => Sys2Proof.Machine.execStopCompletion s
  | .upSlotReport edges upTo => Sys2Proof.Machine.execUpSlotReport edges s upTo
  | .admitSlotReport edges upTo => Sys2Proof.Machine.execAdmitSlotReport edges s upTo
  | .frameByteTaken byte => Sys2Proof.Machine.execFrameByteTaken byte s
  | .characterStartEdge high => Sys2Proof.Machine.execCharacterStartEdge high s
  | .rxdReturnsHigh => Sys2Proof.Machine.execRxdReturnsHigh s
  | .resetnLow nanoseconds => Sys2Proof.Machine.execResetnLow s nanoseconds

end Sys2Proof.Machine
end

