-- ==== Sys2Proof/Safety.lean ====
section
/-! DEFINITION. The terms of the claims: when a request can be taken and what a reply adds, and the invariants of the
blocks. -/

namespace Sys2Proof.Machine

/-! ### Taking a request -/

/-- The executor can take the oldest request of the inbox: RESETn is high and no reset is in hand (R161, R165). -/
abbrev CanTake (r : Request) (rest : List Request) (s : State) : Prop :=
  s.resetLow = false ∧ s.rex.resetInHand = none ∧ s.rex.inbox = r :: rest

/-- The request has left the inbox and its reply stands at the tail of the reply queue (R165, R187). -/
def answered (rest : List Request) (kind tag : Byte) (body : List Byte) (s : State) : State :=
  { s with rex.inbox := rest,
           ntq.replies := s.ntq.replies ++ [{ frame := { kind := kind, tag := tag, body := body }, place := .request }] }

/-- The request has left the inbox; its reply is owed later (R168). -/
def taken (rest : List Request) (s : State) : State := { s with rex.inbox := rest }

/-- The request a request command stands for (R162). -/
def requestOf : Instr → Option Request
  | .identify t b => some ⟨0x01, t, b⟩
  | .status t b => some ⟨0x02, t, b⟩
  | .configure t b => some ⟨0x03, t, b⟩
  | .readConfig t b => some ⟨0x04, t, b⟩
  | .start t b => some ⟨0x05, t, b⟩
  | .stop t b => some ⟨0x06, t, b⟩
  | .schedEdit t b => some ⟨0x07, t, b⟩
  | .schedRead t b => some ⟨0x08, t, b⟩
  | .schedCommit t b => some ⟨0x09, t, b⟩
  | .enroll t b => some ⟨0x0A, t, b⟩
  | .retire t b => some ⟨0x0B, t, b⟩
  | .stationQuery t b => some ⟨0x0C, t, b⟩
  | .strangers t b => some ⟨0x0D, t, b⟩
  | .send t b => some ⟨0x0E, t, b⟩
  | .cancel t b => some ⟨0x0F, t, b⟩
  | .flush t b => some ⟨0x10, t, b⟩
  | .msgStatus t b => some ⟨0x11, t, b⟩
  | .fetch t b => some ⟨0x12, t, b⟩
  | .grant t b => some ⟨0x13, t, b⟩
  | .counters t b => some ⟨0x14, t, b⟩
  | .reset t b => some ⟨0x15, t, b⟩
  | .unknownRequestKind k t b => some ⟨k, t, b⟩
  | .powerOn _ _ | .pinReset _ _ | .goodFrame _ | .checkError _ | .lengthError _ | .huntByteDiscarded _ | .gapTimeout
  | .characterError | .breakDetected | .frameSent | .fullReset | .busReset | .linkReset | .attnPulseExpiry
  | .listeningExpiry | .carrier | .slotStart | .transmissionCompleted | .echoMismatch _ _ _ | .cycleEnd
  | .stopCompletion | .upSlotReport _ _ | .admitSlotReport _ _ | .frameByteTaken _ | .characterStartEdge _
  | .rxdReturnsHigh | .resetnLow _ => none

/-- The body lengths that suit the kinds 0x01 to 0x15 (R166). -/
def BodySuits (kind : Byte) (body : List Byte) : Prop :=
  (kind ∈ [0x01, 0x02, 0x04, 0x05, 0x06, 0x09, 0x0D] → body = []) ∧ (kind = 0x03 → body.length = 9) ∧
  (kind = 0x07 → ∃ start count length pairs,
    body = start :: count :: length :: pairs ∧ pairs.length = 2 * BitVec.toNat count) ∧
  (kind = 0x08 → body.length = 3) ∧ (kind = 0x0A → body.length = 4) ∧
  (kind ∈ [0x0B, 0x0C, 0x10, 0x13, 0x15] → body.length = 1) ∧ (kind = 0x0E → 2 ≤ body.length) ∧
  (kind ∈ [0x0F, 0x11, 0x14] → body.length = 2) ∧ (kind = 0x12 → body.length ≤ 1)

/-- The deferred reply a record is owed: none for an absent or forgotten record (R15, R19, R32). -/
def owedReply (d : Option Deferred) (kind : Byte) (body : List Byte) : List Reply :=
  match d with
  | some r => if r.forgotten then [] else [{ frame := { kind := kind, tag := r.tag, body := body }, place := .request }]
  | none => []

/-! ### Shared terms of the claims -/

/-- Notices offered one after another (R97, R183). -/
def offerAll (ns : List Notice) (s : State) : State := ns.foldl (fun t n => offer n t) s

/-- The three admission items of a beacon: flags, echo address, result code (R73). -/
def beaconItems (a : Adm) : List Byte :=
  match a.result with
  | .none => [0x00, BitVec.ofNat 8 a.echo, 0]
  | .accepted => [0x01, BitVec.ofNat 8 a.echo, 1]
  | .refusedUnknown => [0x01, BitVec.ofNat 8 a.echo, 2]
  | .refusedClass => [0x01, BitVec.ofNat 8 a.echo, 3]
  | .collided => [0x03, BitVec.ofNat 8 a.echo, 4]

/-- What leaving a run does to STT, DLV, ULR, ADM and the pool (R14, R122). -/
def RunEnded (s t : State) : Prop :=
  (∀ a, station a t = (station a s).map fun st =>
    { st with presence := .absent, good := if st.presence = .absent then st.good else 0,
              miss := if st.presence = .absent then st.miss else 0, heard := false, context := none,
              inFlight := st.inFlight.map fun r => freshInFlight r.handle }) ∧
  t.stt.strangers = s.stt.strangers ∧
  t.dlv = { s.dlv with inFlight := s.dlv.inFlight.map fun r => freshBroadcast r.handle } ∧ t.ulr = s.ulr ∧
  t.adm = { result := .none, echo := 0 } ∧
  t.mpl = { s.mpl with free := s.mpl.free + openContexts s, up := s.mpl.up - openContexts s }

/-- The banks after a boundary: the pending bank swapped in for a pending commit, otherwise as they were (R32, R34). -/
def banksAfter (b : Sbk) : Sbk :=
  if b.commit.isSome then { active := b.edit, edit := b.edit, epoch := b.epoch + 1, edited := false, commit := none }
  else b

/-- The slot in progress is over and the engine serves the next one (R3, R6, R129; log 13). -/
abbrev SlotCanStart (s : State) : Prop :=
  held s = false ∧ inRun s = true ∧ lineFree s = true ∧ s.cye.slot < s.sbk.active.length

/-- Global counters advanced one after another. -/
def countAll (cs : List GlobalCounter) (s : State) : State := cs.foldl (fun t c => countGlobal c t) s

/-- An address owns an UP entry among the first N of a bank (R48). -/
def HasUp (b : Bank) (a : Nat) : Prop := ∃ i < b.length, entryAt b i = { kind := .up, owner := a }

/-- The OUTCOME notices at the end of a station's queue: the head FAILED, those behind it DISCARDED where they end too,
in queue order (R43, R53, R97). -/
def queueEndNotices (a : Nat) (why : Reason) (behind : Bool) (queue : List Nat) : List Notice :=
  match queue with
  | [] => []
  | h :: rest =>
    .outcome h a .failed why :: if behind then rest.map fun k => .outcome k a .discarded why else []

/-- The results counted at the end of a station's queue (R97, R103). -/
def queueEndCounts (behind : Bool) (queue : List Nat) : List GlobalCounter :=
  match queue with
  | [] => []
  | _ :: rest => .failed :: if behind then rest.map fun _ => .discarded else []

/-- Four level changes each a bit time after the one before it, within a quarter of a bit time either way (R136). -/
def IsLockRun (a b c d : Edge) : Prop :=
  (a.time + 750 ≤ b.time ∧ b.time ≤ a.time + 1250) ∧ (b.time + 750 ≤ c.time ∧ c.time ≤ b.time + 1250) ∧
  (c.time + 750 ≤ d.time ∧ d.time ≤ c.time + 1250)

/-- No four level changes that follow one another are a lock run (R136). -/
def NoLockRun (edges : List Edge) : Prop :=
  ∀ before a b c d after, edges = before ++ a :: b :: c :: d :: after → ¬ IsLockRun a b c d

/-- The receive part is settled and its class reported: LIF keeps what it found, or is IDLE where the part's closing settled it;
a silent part with a level change is counted (R136, R142). -/
def partReported (slot : RxSlot) (r : Reception) (s : State) : State :=
  { s with lif.line := if r.atClose = true then .idle else .receive slot (.settled r),
           counters := (if r.cls = .silent ∧ r.noise = true then countGlobal .noiseSlots s else s).counters }

/-- A SEND body that no check of R81 refuses, where a buffer can be lent. -/
def SendFits (dest flag : Byte) (bytes : List Byte) (s : State) : Prop :=
  (1 ≤ bytes.length ∧ bytes.length ≤ 64) ∧ (1 ≤ dest ∧ dest ≤ 31 ∧ flag ≤ 1) ∧
  (dest ≠ 31 → ∃ st, station dest.toNat s = some st ∧ (st.presence = .present ∨ st.hold = true)) ∧
  (queueOf dest.toNat s).length < 8 ∧ s.mpl.free ≠ 0 ∧ s.mpl.down < 32

/-- The state of each descriptor of a destination follows its queue's head (R80). -/
def markedFor (dest : Nat) (queue : List Nat) (ms : List Message) : List Message :=
  ms.map fun m =>
    if m.dest = dest then { m with state := if queue.head? = some m.handle then .inFlight else .queued } else m

/-- The queue of a destination is now `queue`: an in-flight record stays with the message that is still first, and a message
that has become first gets a fresh one; the record's counters change as given, and every other queue is as it was (R85,
R86). -/
def QueueIsNow (dest : Nat) (queue : List Nat) (counted : Station → Station) (s t : State) : Prop :=
  (∀ a, a ≠ dest → station a t = station a s) ∧ t.stt.strangers = s.stt.strangers ∧
  (dest ≠ 31 → t.dlv = s.dlv ∧ ∀ st, station dest s = some st → station dest t = some (counted
    { st with queue := queue,
              inFlight := if queue.head? = st.queue.head? then st.inFlight else queue.head?.map freshInFlight })) ∧
  (dest = 31 → t.dlv = { s.dlv with queue := queue, inFlight :=
    if queue.head? = s.dlv.queue.head? then s.dlv.inFlight else queue.head?.map freshBroadcast })

/-! ### The pool (R77, R107, R108) -/

/-- The buffers add up to 48, at most 32 are downlink-held, and the holders are the messages, the open contexts and the
inbox entries. -/
abbrev PoolInv (s : State) : Prop :=
  s.mpl.free + s.mpl.down + s.mpl.up = 48 ∧ s.mpl.down ≤ 32 ∧ s.mpl.down = s.mpl.messages.length ∧
  s.mpl.up = openContexts s + s.ulr.inbox.length ∧ s.ulr.inbox.length ≤ 16

/-! ### Notices, credits and the frame in progress (R182 to R192) -/

/-- The bounds of the notice queue, the marker and the credits; the frame in progress is the head of its queue; and a
marker with count 0 stands only while its OVERFLOW frame is sent. -/
def NoticeInv (s : State) : Prop :=
  s.ntq.notices.length ≤ 23 ∧ (∀ k, s.ntq.marker = some k → k ≤ 255) ∧ s.ntq.credits ≤ 255 ∧
  (∀ f, s.ntq.tx = some f →
    (f.source = .reply → s.ntq.replies.head?.map Reply.frame = some f.frame) ∧
    (f.source = .notice → s.ntq.notices.head?.map noticeFrame = some f.frame) ∧
    (f.source = .overflow → s.ntq.notices = [] ∧ s.ntq.marker.isSome)) ∧
  (s.ntq.marker = some 0 → s.ntq.tx.map TxFrame.source = some .overflow)

/-- Unless RESETn is low or a reset is due, an idle transmitter means that no frame is eligible (R188). -/
def ArbiterInv (s : State) : Prop :=
  held s = false → s.ntq.tx = none →
    s.ntq.startUp = none ∧ s.ntq.replies = [] ∧ (s.ntq.credits = 0 ∨ noticeQueueEmpty s = true)

/-- The ATTN output in its two modes (R191, R192). -/
def AttnInv (s : State) : Prop :=
  (s.rex.config.attnMode = .level → s.ntq.pulse = none ∧ s.ntq.attn = !noticeQueueEmpty s) ∧
  (s.rex.config.attnMode = .pulse → s.ntq.attn = s.ntq.pulse.isSome)

/-! ### The engine and the line (R1, R15, R129, R171) -/

/-- The nine settings stand in their ranges (R171). -/
def SettingsInRange (c : Settings) : Prop :=
  c.busRate ≤ 3 ∧ (8 ≤ c.guard ∧ c.guard ≤ 64) ∧ (1 ≤ c.lockIn ∧ c.lockIn ≤ 8) ∧ (1 ≤ c.lockOut ∧ c.lockOut ≤ 16) ∧
  c.retryLimit ≤ 7 ∧ c.repeats ≤ 3 ∧ (1 ≤ c.faultStreak ∧ c.faultStreak ≤ 8) ∧ (1 ≤ c.pulseLength ∧ c.pulseLength ≤ 255)

/-- A START is pending exactly in LISTENING and a STOP exactly in HALTING; the line state goes with the engine, and the cell
being sent is one of the segment's; the slot position lies in the cycle; the streak stays below the fault streak while the
engine is not STOPPED. -/
def EngineInv (s : State) : Prop :=
  SettingsInRange s.rex.config ∧
  (s.cye.start.isSome ↔ s.cye.state = .listening) ∧ (s.cye.stop.isSome ↔ s.cye.state = .halting) ∧
  (s.cye.deadline.isSome ↔ s.cye.state = .listening) ∧ (s.lif.line = .watch ↔ s.cye.state = .listening) ∧
  (∀ seg k h, s.lif.line = .send seg (.cells k h) → k < (segmentCells seg).length) ∧
  (s.cye.state = .stopped → s.lif.line = .idle) ∧ (inRun s = false → s.cye.slot = 0) ∧
  s.cye.slot ≤ s.sbk.active.length ∧ s.cye.streak ≤ 8 ∧
  (s.cye.state ≠ .stopped → s.cye.streak < s.rex.config.faultStreak)

/-! ### The schedule banks (R21 to R37) -/

/-- Both lengths stand in their range, the active bank passes every check of R27 to R30, a pending commit's bank passes
them too, and an unedited pending bank is the active one. -/
def BankInv (s : State) : Prop :=
  (4 ≤ s.sbk.active.length ∧ s.sbk.active.length ≤ 60) ∧ (4 ≤ s.sbk.edit.length ∧ s.sbk.edit.length ≤ 60) ∧
  bankFault s.sbk.active = none ∧ (s.sbk.commit.isSome → s.sbk.edited = true ∧ bankFault s.sbk.edit = none) ∧
  (s.sbk.edited = false → s.sbk.edit = s.sbk.active)

/-! ### Open requests and the reply queue (R162 to R164, R177, R187) -/

/-- A deferred record owes a reply (R15, R19). -/
def owed (d : Option Deferred) : Nat := if d.any (fun r => !r.forgotten) then 1 else 0

/-- The places of a kind taken in the reply queue (R187). -/
def placesTaken (p : Place) (s : State) : Nat := s.ntq.replies.countP fun r => r.place = p

/-- Every open request waits in the inbox, holds a place in the reply queue or is owed a deferred reply; the bounds of the
inbox, the open requests and the refusal places hold; a reset in hand has its one reply in the queue until it is sent. -/
def OpenInv (s : State) : Prop :=
  s.rex.openCount = s.rex.inbox.length + placesTaken .request s + placesTaken .reset s +
    owed s.cye.start + owed s.cye.stop + owed s.sbk.commit ∧
  s.rex.openCount ≤ 8 ∧ s.rex.inbox.length ≤ 4 ∧ s.ntq.refusals = placesTaken .refusal s ∧ s.ntq.refusals ≤ 2 ∧
  placesTaken .reset s = (if s.rex.resetInHand.any (fun r => !r.replySent) then 1 else 0)

/-! ### Queues and in-flight records (R79, R80, R84 to R86, R96) -/

/-- A destination's queue holds at most 8 handles, none twice, each the handle of one of its own messages. -/
def QueueOk (dest : Nat) (s : State) : Prop :=
  (queueOf dest s).length ≤ 8 ∧ (queueOf dest s).Nodup ∧
  ∀ h ∈ queueOf dest s, ∃ m ∈ s.mpl.messages, m.handle = h ∧ m.dest = dest

/-- A station's in-flight record belongs to the head of its queue, is fresh unless its message has started, and stands
inside its message. -/
def RecordOk (a : Nat) (st : Station) (s : State) : Prop :=
  st.inFlight.map InFlight.handle = st.queue.head? ∧
  ∀ r, st.inFlight = some r →
    (r.started = false → r = freshInFlight r.handle) ∧ (r.phase = .awaitingAck → r.seqSent.isSome) ∧ r.busy < 16 ∧
    ∀ m ∈ s.mpl.messages, m.handle = r.handle → m.dest = a → r.index < segmentCount m.bytes.length

/-- The broadcast in-flight record, in the same terms. -/
def BroadcastOk (s : State) : Prop :=
  s.dlv.inFlight.map BroadcastInFlight.handle = s.dlv.queue.head? ∧
  ∀ r, s.dlv.inFlight = some r →
    (r.started = false → r = freshBroadcast r.handle) ∧
    ∀ m ∈ s.mpl.messages, m.handle = r.handle → m.dest = 31 → r.index < segmentCount m.bytes.length

/-- Handles are distinct and lie in 1 to 65535; every message has its form and stands in its destination's queue with the
state its place gives; the queues and in-flight records are in order. -/
def QueueInv (s : State) : Prop :=
  (s.mpl.messages.map Message.handle).Nodup ∧ (1 ≤ s.mpl.handleCounter ∧ s.mpl.handleCounter ≤ 65535) ∧
  (∀ m ∈ s.mpl.messages,
    (1 ≤ m.handle ∧ m.handle ≤ 65535) ∧ (1 ≤ m.dest ∧ m.dest ≤ 31) ∧ (1 ≤ m.bytes.length ∧ m.bytes.length ≤ 64) ∧
    m.handle ∈ queueOf m.dest s ∧ (m.state = .inFlight ↔ (queueOf m.dest s).head? = some m.handle)) ∧
  (∀ dest, QueueOk dest s) ∧ (∀ a st, station a s = some st → RecordOk a st s) ∧ BroadcastOk s

/-! ### Stations (R39, R46, R69, R91, R102, R107, R116) -/

/-- What a record keeps: its counts in their ranges; it is ACQUIRING or PRESENT only in a run; it has a started message or
a context only while PRESENT; the last accepted sequence is one behind the expected one; retries within the limit. -/
def StationOk (st : Station) (s : State) : Prop :=
  st.good ≤ s.rex.config.lockIn ∧ st.miss ≤ s.rex.config.lockOut ∧
  (st.presence ≠ .absent → inRun s = true) ∧ (inRun s = false → st.heard = false) ∧
  (∀ r, st.inFlight = some r → (r.started = true → st.presence = .present) ∧ r.retries ≤ s.rex.config.retryLimit) ∧
  (∀ c, st.context = some c → st.presence = .present ∧ c.bytes.length ≤ 64 ∧ 1 ≤ c.segments ∧ c.segments ≤ 8) ∧
  (∀ q, st.lastAccepted = some q → st.upExpected = q + 1)

/-- Every record is in order, and the broadcast message is started only in a run, with its sends within the repeats. -/
def StationInv (s : State) : Prop :=
  (∀ a st, station a s = some st → StationOk st s) ∧
  ∀ r, s.dlv.inFlight = some r → (r.started = true → inRun s = true) ∧ r.sends ≤ s.rex.config.repeats

/-! ### The stranger set (R55, R56) -/

/-- The stranger set stands in ascending address order, with addresses 1 to 30 and classes 0 to 15. -/
def StrangerInv (s : State) : Prop :=
  (s.stt.strangers.map Stranger.address).Pairwise (· < ·) ∧
  ∀ x ∈ s.stt.strangers, (1 ≤ x.address ∧ x.address ≤ 30) ∧ x.cls ≤ 0x0F

end Sys2Proof.Machine
end

