-- ==== Sys2Proof/Certificates/Slice0/Obligations.lean ====
section
/-! DEFINITION. The statements for the provers, in the order of OBLIGATIONS.json. A status, kind or code byte is written as
the number spec/11 gives it. `arbitrate` closes every step that happens (R188); what it does is stated on its own. -/

section Slice0

open Sys2Proof Sys2Proof.Machine

/-! ### The step and the taking of commands -/

/-- A step runs the command at the front of the queue on the state with the queue's rest; on an empty queue time passes by one
tick, which PinsFollowTheState describes. The queue and the tick are the model's choice, log 2. -/
def Obligations.StepRunsTheFrontCommand : Prop :=
  (∀ (c : Instr) (rest : List Instr) (s : State), s.pending = c :: rest → step s = exec c { s with pending := rest }) ∧
  (∀ s : State, s.pending = [] → step s = .next (tick s))

/-- No command stops the part, and none touches the queue of waiting commands: every error the spec describes ends in a
next state (R165, R156, R157, R134). The model's choices: a command that may not happen now answers the same state, log 1;
the queue of waiting commands, log 2; and a state that no run reaches gets an answer too, log 17. -/
def Obligations.EveryCommandAnswersANextState : Prop :=
  ∀ (c : Instr) (s : State), ∃ t, exec c s = .next t ∧ t.pending = s.pending

/-- While RESETn is low, or while a reset takes effect, no command but power-on, the pin reset and the resets is taken: the
model's reading of R159 and R177, log 14 for RESETn and log 9 for the time between a RESET reply's last byte and its reset. A
request is taken only as the oldest of the inbox and with no reset in hand (R165, log 10). That a command which may not
happen leaves the state as it is, is the model's choice, log 1. -/
def Obligations.CommandsThatMayNotHappenNow : Prop :=
  (∀ (c : Instr) (s : State), (s.resetLow = true ∨ s.rex.resetInHand.any (·.replySent) = true) →
    (∀ a b, c ≠ .powerOn a b) → (∀ a b, c ≠ .pinReset a b) → (∀ n, c ≠ .resetnLow n) →
    c ≠ .fullReset → c ≠ .busReset → c ≠ .linkReset → exec c s = .next s) ∧
  (∀ (c : Instr) (r : Request) (s : State), requestOf c = some r → (∀ rest, ¬ CanTake r rest s) → exec c s = .next s)

/-- A request whose body length does not suit its kind leaves the inbox, is answered BAD_LENGTH under its own tag, and
reaches no owner; one whose kind lies outside 0x01 to 0x15 is answered BAD_KIND, whatever its body, under the received kind
with its most significant bit set (R165, R166). -/
def Obligations.MalformedRequestsAreRefused : Prop :=
  (∀ (c : Instr) (r : Request) (rest : List Request) (s : State),
    requestOf c = some r → 0x01 ≤ r.kind → r.kind ≤ 0x15 → (∀ k t b, c ≠ .unknownRequestKind k t b) →
    CanTake r rest s → ¬ BodySuits r.kind r.body →
    exec c s = .next (arbitrate (answered rest (r.kind + 0x80) r.tag [0x02] s))) ∧
  (∀ (kind tag : Byte) (body : List Byte) (rest : List Request) (s : State),
    (kind = 0x00 ∨ 0x15 < kind) → CanTake ⟨kind, tag, body⟩ rest s →
    exec (.unknownRequestKind kind tag body) s = .next (arbitrate (answered rest (kind ||| 0x80) tag [0x01] s)))

/-! ### The executor's own requests -/

/-- IDENTIFY answers its fixed values in every state and changes nothing else (R169). -/
def Obligations.IdentifyAnswersItsFixedValues : Prop :=
  ∀ (tag : Byte) (rest : List Request) (s : State), CanTake ⟨0x01, tag, []⟩ rest s →
    exec (.identify tag []) s = .next (arbitrate (answered rest 0x81 tag
      [0x00, 0x6B, 0x01, 0x30, 0x01, 30, 60, 48, 64, 32, 8, 16, 4, 8, 23] s))

/-- STATUS answers the items of one instant and changes nothing else (R170). -/
def Obligations.StatusAnswersTheItemsOfOneInstant : Prop :=
  ∀ (tag : Byte) (rest : List Request) (s : State), CanTake ⟨0x02, tag, []⟩ rest s →
    exec (.status tag []) s = .next (arbitrate (answered rest 0x82 tag
      [0x00, (match s.cye.state with | .stopped => 0 | .listening => 1 | .running => 2 | .halting => 3), s.cye.cycle,
       BitVec.ofNat 8 s.cye.streak,
       (match s.cye.cause with | .none => 0 | .echoBeacon => 1 | .echoData => 2 | .echoEmpty => 3), s.sbk.epoch,
       BitVec.ofNat 8 s.sbk.active.length, BitVec.ofNat 8 s.ntq.credits, BitVec.ofNat 8 s.mpl.free,
       BitVec.ofNat 8 s.mpl.down, BitVec.ofNat 8 s.mpl.up, BitVec.ofNat 8 s.ulr.inbox.length,
       BitVec.ofNat 8 s.rex.openCount] s))

/-- CONFIGURE: STATE outside STOPPED; in STOPPED BAD_ARGUMENT where one of the nine is out of range; otherwise all nine take
their values, counts above a lowered limit come down to it, and a change of the ATTN mode acts at once. READ_CONFIG answers
the nine as they stand (R171, R172, R51, R192). -/
def Obligations.ConfigureTakesAllNineOrNone : Prop :=
  (∀ (tag : Byte) (body : List Byte) (rest : List Request) (s : State),
    body.length = 9 → CanTake ⟨0x03, tag, body⟩ rest s → s.cye.state ≠ .stopped →
    exec (.configure tag body) s = .next (arbitrate (answered rest 0x83 tag [0x04] s))) ∧
  (∀ (tag b0 b1 b2 b3 b4 b5 b6 b7 b8 : Byte) (rest : List Request) (s : State),
    CanTake ⟨0x03, tag, [b0, b1, b2, b3, b4, b5, b6, b7, b8]⟩ rest s → s.cye.state = .stopped →
    (if b0 ≤ 3 ∧ 8 ≤ b1 ∧ b1 ≤ 64 ∧ 1 ≤ b2 ∧ b2 ≤ 8 ∧ 1 ≤ b3 ∧ b3 ≤ 16 ∧ b4 ≤ 7 ∧ b5 ≤ 3 ∧ 1 ≤ b6 ∧ b6 ≤ 8 ∧
        b7 ≤ 1 ∧ 1 ≤ b8 then
      exec (.configure tag [b0, b1, b2, b3, b4, b5, b6, b7, b8]) s = .next (arbitrate (answered rest 0x83 tag [0x00]
        { s with
          rex.config :=
            { busRate := b0.toNat, guard := b1.toNat, lockIn := b2.toNat, lockOut := b3.toNat, retryLimit := b4.toNat,
              repeats := b5.toNat, faultStreak := b6.toNat, attnMode := if b7 = 0 then .level else .pulse,
              pulseLength := b8.toNat },
          stt.records := s.stt.records.map fun r => r.map fun st =>
            { st with good := min st.good b2.toNat, miss := min st.miss b3.toNat },
          ntq.attn :=
            if b7 = 0 then (if s.rex.config.attnMode = .pulse then !noticeQueueEmpty s else s.ntq.attn)
            else (if s.rex.config.attnMode = .level then false else s.ntq.attn),
          ntq.pulse := if b7 = 0 ∧ s.rex.config.attnMode = .pulse then none else s.ntq.pulse }))
    else exec (.configure tag [b0, b1, b2, b3, b4, b5, b6, b7, b8]) s =
      .next (arbitrate (answered rest 0x83 tag [0x03] s)))) ∧
  (∀ (tag : Byte) (rest : List Request) (s : State), CanTake ⟨0x04, tag, []⟩ rest s →
    exec (.readConfig tag []) s = .next (arbitrate (answered rest 0x84 tag
      [0x00, BitVec.ofNat 8 s.rex.config.busRate, BitVec.ofNat 8 s.rex.config.guard, BitVec.ofNat 8 s.rex.config.lockIn,
       BitVec.ofNat 8 s.rex.config.lockOut, BitVec.ofNat 8 s.rex.config.retryLimit,
       BitVec.ofNat 8 s.rex.config.repeats, BitVec.ofNat 8 s.rex.config.faultStreak,
       (match s.rex.config.attnMode with | .level => 0 | .pulse => 1), BitVec.ofNat 8 s.rex.config.pulseLength] s)))

/-- COUNTERS reads one set whole, most significant byte first, and clears that set after the read where the flag says so;
a selector or flag out of range, and a station without a record, are refused (R173). The global set has its 39 counters and a
station set its 31 in the order given here (R175, R176, R194). -/
def Obligations.CountersReadsAndClearsOneSet : Prop :=
  ([GlobalCounter.cyclesBegun, .listenRefusals, .busFaults, .stationsGained, .stationsLost, .strangerInsertions,
    .admitCollisions, .admitLate, .admitInvalid, .joinsRefusedUnknown, .delivered, .failed, .discarded, .cancelled,
    .broadcastSends, .downlinkLendRefusals, .uplinkLendRefusals, .segmentsFromUnenrolled, .inboxFullAnswers,
    .messagesCompleted, .transmissionsBegun, .transmissionsCompleted, .echoMismatches, .noiseSlots, .framesReceived,
    .checkErrors, .rejectsDropped, .lengthErrors, .gapTimeouts, .characterErrors, .breaks, .huntBytesDiscarded,
    .requestsAccepted, .inboxFullReplies, .inboxFullRepliesDropped, .repliesSent, .noticesSent, .noticesDropped,
    .overflowNoticesSent].map (fun c => (globalIndex c).val) = List.range 39) ∧
  ([StationCounter.cyclesHeard, .cyclesMissed, .gains, .losses, .failedAcquisitions, .joinsAccepted, .restarts,
    .joinsRefusedForClass, .dataSegmentsSent, .segmentsResent, .segmentsAcknowledged, .busyAnswers,
    .unansweredJudgements, .messagesDelivered, .messagesFailed, .silentUpSlots, .lateSegments, .damagedSegments,
    .straySegments, .staleSegments, .misplacedSegments, .unjudgedDataSegments, .segmentsAccepted, .duplicates,
    .outOfSequence, .busyAnswersGiven, .orphanSegments, .oversizeDiscards, .emptyMessages, .contextsAbandoned,
    .messagesCompleted].map (fun c => (stationIndex c).val) = List.range 31) ∧
  ∀ (tag sel flag : Byte) (rest : List Request) (s : State), CanTake ⟨0x14, tag, [sel, flag]⟩ rest s →
    (1 < flag ∨ 30 < sel →
      exec (.counters tag [sel, flag]) s = .next (arbitrate (answered rest 0x94 tag [0x03] s))) ∧
    (flag ≤ 1 → sel = 0 → exec (.counters tag [sel, flag]) s = .next (arbitrate (answered rest 0x94 tag
      (0x00 :: 0x00 :: s.counters.toList.flatMap fun n => [BitVec.ofNat 8 (n / 256), BitVec.ofNat 8 n])
      { s with counters := if flag = 1 then Vector.replicate 39 0 else s.counters }))) ∧
    (flag ≤ 1 → 1 ≤ sel → sel ≤ 30 → station sel.toNat s = none →
      exec (.counters tag [sel, flag]) s = .next (arbitrate (answered rest 0x94 tag [0x06] s))) ∧
    (∀ st, flag ≤ 1 → 1 ≤ sel → sel ≤ 30 → station sel.toNat s = some st →
      exec (.counters tag [sel, flag]) s = .next (arbitrate (answered rest 0x94 tag
        (0x00 :: sel :: st.counters.toList.flatMap fun n => [BitVec.ofNat 8 (n / 256), BitVec.ofNat 8 n])
        (setStation sel.toNat
          (some { st with counters := if flag = 1 then Vector.replicate 31 0 else st.counters }) s))))

/-- RESET with a scope of 1, 2 or 3 is taken in every engine state: the reset in hand takes the scope, and the reply OK joins
at once, with the downlink-held count for BUS; another scope is refused and nothing happens (R177, R178). -/
def Obligations.ResetIsAnsweredFirst : Prop :=
  ∀ (tag b : Byte) (rest : List Request) (s : State), CanTake ⟨0x15, tag, [b]⟩ rest s →
    (∀ scope body, ((b = 1 ∧ scope = .full ∧ body = [0x00]) ∨
        (b = 2 ∧ scope = .bus ∧ body = [0x00, BitVec.ofNat 8 s.mpl.down]) ∨ (b = 3 ∧ scope = .link ∧ body = [0x00])) →
      exec (.reset tag [b]) s = .next (arbitrate
        { s with rex.inbox := rest, rex.resetInHand := some { scope := scope, replySent := false },
                 ntq.replies := s.ntq.replies ++
                   [{ frame := { kind := 0x95, tag := tag, body := body }, place := .reset }] })) ∧
    (b = 0 ∨ 3 < b → exec (.reset tag [b]) s = .next (arbitrate (answered rest 0x95 tag [0x03] s)))

/-! ### The Cycle Engine -/

/-- START and STOP in the four engine states; a STOP in LISTENING answers the pending START CANCELLED first, unless it is
forgotten (R9, R11, R19, R143). -/
def Obligations.StartAndStopByEngineState : Prop :=
  (∀ (tag : Byte) (rest : List Request) (s : State), CanTake ⟨0x05, tag, []⟩ rest s →
    (s.cye.state = .stopped → exec (.start tag []) s = .next (arbitrate (taken rest
      { s with
        cye := { s.cye with state := .listening, cycle := 0, start := some { tag := tag, forgotten := false },
                            deadline := some ((s.sbk.active.length + 1) * (152 + s.rex.config.guard)), streak := 0,
                            cause := .none },
        lif.line := .watch }))) ∧
    (s.cye.state = .listening → exec (.start tag []) s = .next (arbitrate (answered rest 0x85 tag [0x05] s))) ∧
    (s.cye.state = .running ∨ s.cye.state = .halting →
      exec (.start tag []) s = .next (arbitrate (answered rest 0x85 tag [0x04] s)))) ∧
  (∀ (tag : Byte) (rest : List Request) (s : State), CanTake ⟨0x06, tag, []⟩ rest s →
    (s.cye.state = .stopped → exec (.stop tag []) s = .next (arbitrate (answered rest 0x86 tag [0x00] s))) ∧
    (s.cye.state = .listening → exec (.stop tag []) s = .next (arbitrate (answered rest 0x86 tag [0x00]
      { s with
        cye := { s.cye with state := .stopped, deadline := none, start := none },
        lif.line := .idle,
        ntq.replies := s.ntq.replies ++ owedReply s.cye.start 0x85 [0x0F] }))) ∧
    (s.cye.state = .running → exec (.stop tag []) s = .next (arbitrate (taken rest
      { s with cye := { s.cye with state := .halting, stop := some { tag := tag, forgotten := false } } }))) ∧
    (s.cye.state = .halting → exec (.stop tag []) s = .next (arbitrate (answered rest 0x86 tag [0x05] s))))

/-- LISTENING ends at the deadline in a run, with a pending commit swapped first, START answered OK and cycle 0 begun; or at
carrier, with START answered LINE_BUSY and one listen refusal. Where START and COMMIT are both answered, either may come
first (R10, R19, R32). In any other state a level change is not carrier. -/
def Obligations.ListeningEndsInARunOrByCarrier : Prop :=
  (∀ s : State, held s = false → s.cye.state = .listening →
    ∃ v, exec .listeningExpiry s = .next (arbitrate (beginCycle 0 v)) ∧
      { v with ntq := s.ntq, choices := s.choices } =
        swapPending { s with cye := { s.cye with state := .running, deadline := none, start := none } } ∧
      { v.ntq with replies := s.ntq.replies } = s.ntq ∧
      (v.ntq.replies = s.ntq.replies ++ owedReply s.cye.start 0x85 [0x00] ++
          owedReply s.sbk.commit 0x89 [0x00, s.sbk.epoch + 1] ∨
        v.ntq.replies = s.ntq.replies ++ owedReply s.sbk.commit 0x89 [0x00, s.sbk.epoch + 1] ++
          owedReply s.cye.start 0x85 [0x00])) ∧
  (∀ s : State, held s = false → s.cye.state = .listening →
    exec .carrier s = .next (arbitrate { countGlobal .listenRefusals s with
      cye := { s.cye with state := .stopped, deadline := none, start := none },
      lif.line := .idle,
      ntq.replies := s.ntq.replies ++ owedReply s.cye.start 0x85 [0x0E] })) ∧
  (∀ s : State, s.cye.state ≠ .listening → exec .carrier s = .next s)

/-- A cycle begins: the beacon carries the cycle number, the epoch and length of the bank that is active now and the
admission result, which is consumed; the slot position is 0, and the cycle and the transmission are counted. A slot start in
an IDLE, UP or ADMIT slot advances the slot position, and LIF is IDLE or opens a receive part; nothing else changes (R3, R4,
R6, R22, R73, R133, R136; that a reported receive part has closed by then is the model's reading, log 13). -/
def Obligations.BeaconsAndSlotsWithoutTransmission : Prop :=
  (∀ (cycle : Byte) (s : State),
    beginCycle cycle s =
      { countGlobal .cyclesBegun (countGlobal .transmissionsBegun s) with
        cye := { s.cye with cycle := cycle, slot := 0 },
        adm := { result := .none, echo := 0 },
        lif.line := .send
          { kind := .beacon, address := 0, seq := 0, first := true, last := true, ackValid := false, busy := false,
            ackSeq := 0, echo := cycle,
            payload := [cycle, s.sbk.epoch, BitVec.ofNat 8 s.sbk.active.length] ++ beaconItems s.adm }
          .lead }) ∧
  (∀ (s : State), SlotCanStart s →
    ((entryAt s.sbk.active s.cye.slot).kind = .idle →
      exec .slotStart s = .next (arbitrate { s with cye.slot := s.cye.slot + 1, lif.line := .idle })) ∧
    ((entryAt s.sbk.active s.cye.slot).kind = .up →
      exec .slotStart s = .next (arbitrate { s with cye.slot := s.cye.slot + 1, lif.line := .receive .up (.wait []) })) ∧
    ((entryAt s.sbk.active s.cye.slot).kind = .admission →
      exec .slotStart s =
        .next (arbitrate { s with cye.slot := s.cye.slot + 1, lif.line := .receive .admission (.wait []) })))

/-- A transmission that completes clears the streak. A sample of a cell that differs from the driven level aborts the segment:
below the fault streak only the streak and the echo mismatches rise, and the rest of the cycle goes on. A sample that equals it
aborts nothing (R12, R133, R134). That a sample which is already past aborts nothing either, and that both commands may run
ahead of the ticks, is the model's choice, log 1 and log 6. -/
def Obligations.TransmissionsEndCleanlyOrByAnEchoMismatch : Prop :=
  (∀ (seg : Segment) (phase : SendPhase) (s : State), held s = false → s.lif.line = .send seg phase →
    exec .transmissionCompleted s =
      .next (arbitrate { countGlobal .transmissionsCompleted s with lif.line := .idle, cye.streak := 0 })) ∧
  (∀ (seg : Segment) (phase : SendPhase) (cell : Nat) (cellValue second level : Bool) (s : State), held s = false →
    s.lif.line = .send seg phase → (segmentCells seg)[cell]? = some cellValue →
    let past := phase = .lag ∨ ∃ k h, phase = .cells k h ∧ (cell < k ∨ (cell = k ∧ h = true ∧ second = false))
    (past → exec (.echoMismatch cell second level) s = .next s) ∧
    (¬ past → level ≠ (if second then cellValue else !cellValue) → s.cye.streak + 1 < s.rex.config.faultStreak →
      exec (.echoMismatch cell second level) s =
        .next (arbitrate { countGlobal .echoMismatches s with lif.line := .idle, cye.streak := s.cye.streak + 1 })) ∧
    (level = (if second then cellValue else !cellValue) → exec (.echoMismatch cell second level) s = .next s))

/-- The mismatch that completes the streak is a bus fault: the cause and the counter, a BUS_FAULT notice with the streak and
the cycle, STOPPED at once, the run left, a pending commit swapped and a pending STOP answered OK, in either order (R12,
R14, R15, R32). -/
def Obligations.TheStreakEndsInABusFault : Prop :=
  ∀ (seg : Segment) (phase : SendPhase) (cell : Nat) (cellValue second : Bool) (s : State), held s = false →
    s.lif.line = .send seg phase → sampleAhead phase cell second = true →
    (segmentCells seg)[cell]? = some cellValue → s.cye.streak + 1 = s.rex.config.faultStreak →
    ∃ v, exec (.echoMismatch cell second (if second then !cellValue else cellValue)) s = .next (arbitrate v) ∧
      RunEnded s v ∧ v.sbk = banksAfter s.sbk ∧ v.lif.line = .idle ∧ v.hlk = s.hlk ∧ v.rex = s.rex ∧
      v.resetLow = s.resetLow ∧
      v.cye = { s.cye with
        state := .stopped, slot := 0, stop := none, streak := s.cye.streak + 1,
        cause := match seg.kind with
          | .beacon => .echoBeacon | .data => .echoData | .empty => .echoEmpty | .join => .none } ∧
      v.counters = (offer (.busFault (s.cye.streak + 1) s.cye.cycle)
        (countGlobal .busFaults (countGlobal .echoMismatches s))).counters ∧
      { v.ntq with replies := s.ntq.replies } = (offer (.busFault (s.cye.streak + 1) s.cye.cycle) s).ntq ∧
      (v.ntq.replies = s.ntq.replies ++ owedReply s.cye.stop 0x86 [0x00] ++
          owedReply s.sbk.commit 0x89 [0x00, s.sbk.epoch + 1] ∨
        v.ntq.replies = s.ntq.replies ++ owedReply s.sbk.commit 0x89 [0x00, s.sbk.epoch + 1] ++
          owedReply s.cye.stop 0x86 [0x00])

/-- The cycle end in RUNNING: presence is evaluated on the ended cycle's bank, then a pending commit is swapped and answered,
then the next cycle begins, one number on (R7, R32; log 13). -/
def Obligations.TheCycleEndOrdersItsWork : Prop :=
  ∀ s : State, held s = false → s.cye.state = .running → lineFree s = true → s.cye.slot = s.sbk.active.length →
    exec .cycleEnd s = .next (arbitrate (beginCycle (s.cye.cycle + 1)
      { swapPending (evaluatePresence s) with
        ntq := { (evaluatePresence s).ntq with
          replies := s.ntq.replies ++ owedReply s.sbk.commit 0x89 [0x00, s.sbk.epoch + 1] } }))

/-- The stop completion: STOPPED with the cycle number kept, no presence evaluation and no notice, the run left, a pending
commit swapped, and STOP and COMMIT answered in either order (R8, R14, R15, R32). -/
def Obligations.TheStopCompletionLeavesTheRun : Prop :=
  ∀ s : State, held s = false → s.cye.state = .halting → lineFree s = true → s.cye.slot = s.sbk.active.length →
    ∃ v, exec .stopCompletion s = .next (arbitrate v) ∧
      RunEnded s v ∧ v.sbk = banksAfter s.sbk ∧ v.lif.line = .idle ∧ v.hlk = s.hlk ∧ v.rex = s.rex ∧
      v.resetLow = s.resetLow ∧
      v.cye = { s.cye with state := .stopped, slot := 0, stop := none } ∧ v.counters = s.counters ∧
      { v.ntq with replies := s.ntq.replies } = s.ntq ∧
      (v.ntq.replies = s.ntq.replies ++ owedReply s.cye.stop 0x86 [0x00] ++
          owedReply s.sbk.commit 0x89 [0x00, s.sbk.epoch + 1] ∨
        v.ntq.replies = s.ntq.replies ++ owedReply s.sbk.commit 0x89 [0x00, s.sbk.epoch + 1] ++
          owedReply s.cye.stop 0x86 [0x00])

/-! ### Schedule banks -/

/-- SCHED_EDIT: BUSY while a commit is pending; BAD_ARGUMENT, with nothing written, where a field is out of range; otherwise
the pairs stand in the pending entries from the start index on, a new length becomes the pending bank's length, and the
edited flag is set (R23, R24). -/
def Obligations.SchedEditWritesThePendingBank : Prop :=
  ∀ (tag start count length : Byte) (pairs : List Byte) (rest : List Request) (s : State),
    pairs.length = 2 * count.toNat → CanTake ⟨0x07, tag, start :: count :: length :: pairs⟩ rest s →
    (s.sbk.commit.isSome → exec (.schedEdit tag (start :: count :: length :: pairs)) s =
      .next (arbitrate (answered rest 0x87 tag [0x05] s))) ∧
    (s.sbk.commit = none →
      ¬(start ≤ 59 ∧ start.toNat + count.toNat ≤ 60 ∧ (length = 0 ∨ (4 ≤ length ∧ length ≤ 60)) ∧
        ¬(count = 0 ∧ length = 0) ∧
        ∀ j < count.toNat, pairs.getD (2 * j) 0 ≤ 3 ∧ pairs.getD (2 * j + 1) 0 ≤ 31) →
      exec (.schedEdit tag (start :: count :: length :: pairs)) s =
        .next (arbitrate (answered rest 0x87 tag [0x03] s))) ∧
    (s.sbk.commit = none →
      (start ≤ 59 ∧ start.toNat + count.toNat ≤ 60 ∧ (length = 0 ∨ (4 ≤ length ∧ length ≤ 60)) ∧
        ¬(count = 0 ∧ length = 0) ∧
        ∀ j < count.toNat, pairs.getD (2 * j) 0 ≤ 3 ∧ pairs.getD (2 * j + 1) 0 ≤ 31) →
      ∃ b : Bank,
        exec (.schedEdit tag (start :: count :: length :: pairs)) s =
          .next (arbitrate (answered rest 0x87 tag [0x00] { s with sbk.edit := b, sbk.edited := true })) ∧
        b.length = (if length = 0 then s.sbk.edit.length else length.toNat) ∧
        ∀ i < 60, entryAt b i =
          if start.toNat ≤ i ∧ i < start.toNat + count.toNat then
            { kind := match (pairs.getD (2 * (i - start.toNat)) 0).toNat with
                | 0 => .idle | 1 => .down | 2 => .up | _ => .admission,
              owner := (pairs.getD (2 * (i - start.toNat) + 1) 0).toNat }
          else entryAt s.sbk.edit i)

/-- SCHED_READ answers the selected bank's length, the epoch, the two flags and the entries in index order, in every engine
state and with a commit pending or not; a field out of range is refused; nothing changes (R25). -/
def Obligations.SchedReadAnswersABank : Prop :=
  ∀ (tag sel start count : Byte) (rest : List Request) (s : State), CanTake ⟨0x08, tag, [sel, start, count]⟩ rest s →
    if sel ≤ 1 ∧ start ≤ 59 ∧ 1 ≤ count ∧ start.toNat + count.toNat ≤ 60 then
      exec (.schedRead tag [sel, start, count]) s = .next (arbitrate (answered rest 0x88 tag
        ([0x00, sel, BitVec.ofNat 8 (if sel = 0 then s.sbk.active else s.sbk.edit).length, s.sbk.epoch,
          (if s.sbk.edited then 0x01 else 0x00) + (if s.sbk.commit.isSome then 0x02 else 0x00)] ++
         (List.range' start.toNat count.toNat).flatMap fun i =>
           let e := entryAt (if sel = 0 then s.sbk.active else s.sbk.edit) i
           [(match e.kind with | .idle => 0 | .down => 1 | .up => 2 | .admission => 3), BitVec.ofNat 8 e.owner]) s))
    else exec (.schedRead tag [sel, start, count]) s = .next (arbitrate (answered rest 0x88 tag [0x03] s))

/-- SCHED_COMMIT, the first case that applies: BUSY with a commit pending; OK with the current epoch on an unedited bank;
SCHEDULE_INVALID with the reason and index of the first failing check, nothing changed; the swap at once with the new epoch
in STOPPED; a pending record with the tag in any other state (R26, R31). -/
def Obligations.SchedCommitByCase : Prop :=
  ∀ (tag : Byte) (rest : List Request) (s : State), CanTake ⟨0x09, tag, []⟩ rest s →
    (s.sbk.commit.isSome → exec (.schedCommit tag []) s = .next (arbitrate (answered rest 0x89 tag [0x05] s))) ∧
    (s.sbk.commit = none → s.sbk.edited = false →
      exec (.schedCommit tag []) s = .next (arbitrate (answered rest 0x89 tag [0x00, s.sbk.epoch] s))) ∧
    (∀ why i, s.sbk.commit = none → s.sbk.edited = true → bankFault s.sbk.edit = some (why, i) →
      exec (.schedCommit tag []) s = .next (arbitrate (answered rest 0x89 tag
        [0x0D, (match why with
          | .lengthRange => 1 | .ownerKind => 2 | .tooManyAdmit => 3 | .stationSlots => 4 | .unpaired => 5),
         BitVec.ofNat 8 i] s))) ∧
    (s.sbk.commit = none → s.sbk.edited = true → bankFault s.sbk.edit = none → s.cye.state = .stopped →
      exec (.schedCommit tag []) s =
        .next (arbitrate (answered rest 0x89 tag [0x00, s.sbk.epoch + 1] (swap s)))) ∧
    (s.sbk.commit = none → s.sbk.edited = true → bankFault s.sbk.edit = none → s.cye.state ≠ .stopped →
      exec (.schedCommit tag []) s =
        .next (arbitrate (taken rest { s with sbk.commit := some { tag := tag, forgotten := false } })))

/-- The five checks of a bank, the first failing one in the order of R31, each with the index its rule reports; for every bank
whose length is at most 60 and whose owners are at most 31, as R21 and R22 have them (R27, R28, R29, R30). -/
def Obligations.BankChecksInTheirOrder : Prop :=
  ∀ b : Bank, b.length ≤ 60 → (∀ i < 60, (entryAt b i).owner ≤ 31) →
    let kind := fun i => (entryAt b i).kind
    let owner := fun i => (entryAt b i).owner
    let beyond := fun i => b.length ≤ i ∧ i < 60 ∧ kind i ≠ .idle
    let unsuited := fun i => i < b.length ∧
      (((kind i = .idle ∨ kind i = .admission) ∧ owner i ≠ 0) ∨ (kind i = .up ∧ (owner i = 0 ∨ owner i = 31)) ∨
        (kind i = .down ∧ owner i = 0))
    let earlier := fun (k : SlotKind) (a i : Nat) => (List.range i).countP fun j => kind j = k ∧ owner j = a
    let nth := fun (n : Nat) (k : SlotKind) (a i : Nat) =>
      i < b.length ∧ kind i = k ∧ owner i = a ∧ earlier k a i = n
    let fifth := fun (a i : Nat) => nth 4 .down a i ∨ nth 4 .up a i
    let unpaired := fun (a i : Nat) =>
      (nth 0 .down a i ∧ ∀ j, ¬ nth 0 .up a j) ∨ (nth 0 .up a i ∧ ∀ j, ¬ nth 0 .down a j)
    let pass1 := ∀ i, ¬ beyond i
    let pass2 := ∀ i, ¬ unsuited i
    let pass3 := ∀ i, ¬ nth 1 .admission 0 i
    let pass4 := ∀ a i, 1 ≤ a → a ≤ 31 → ¬ fifth a i
    let pass5 := ∀ a i, 1 ≤ a → a ≤ 30 → ¬ unpaired a i
    (bankFault b = none ↔ pass1 ∧ pass2 ∧ pass3 ∧ pass4 ∧ pass5) ∧
    (∀ i, bankFault b = some (.lengthRange, i) ↔ beyond i ∧ ∀ j < i, ¬ beyond j) ∧
    (∀ i, bankFault b = some (.ownerKind, i) ↔ pass1 ∧ unsuited i ∧ ∀ j < i, ¬ unsuited j) ∧
    (∀ i, bankFault b = some (.tooManyAdmit, i) ↔ pass1 ∧ pass2 ∧ nth 1 .admission 0 i) ∧
    (∀ i, bankFault b = some (.stationSlots, i) ↔ pass1 ∧ pass2 ∧ pass3 ∧
      ∃ a, 1 ≤ a ∧ a ≤ 31 ∧ fifth a i ∧ (∀ j < i, ¬ fifth a j) ∧ ∀ a' j, 1 ≤ a' → a' < a → ¬ fifth a' j) ∧
    (∀ i, bankFault b = some (.unpaired, i) ↔ pass1 ∧ pass2 ∧ pass3 ∧ pass4 ∧
      ∃ a, 1 ≤ a ∧ a ≤ 30 ∧ unpaired a i ∧ ∀ a' j, 1 ≤ a' → a' < a → ¬ unpaired a' j)

/-- A swap: the active bank takes the pending bank, the epoch rises, the edited flag clears and the record goes; the in-flight
message of a station without a DOWN entry in the new bank is rewound, and the broadcast one too; all else is kept. At a
boundary a pending commit is swapped so, and without one nothing changes (R32, R34, R36, R96). -/
def Obligations.ASwapRewindsWhatLosesItsSlots : Prop :=
  ∀ s : State,
    let t := swap s
    let hasDown := fun (a : Nat) => ∃ i < s.sbk.edit.length, entryAt s.sbk.edit i = { kind := .down, owner := a }
    t = { s with sbk := t.sbk, stt.records := t.stt.records, dlv.inFlight := t.dlv.inFlight } ∧
    t.sbk = { active := s.sbk.edit, edit := s.sbk.edit, epoch := s.sbk.epoch + 1, edited := false, commit := none } ∧
    (∀ a, hasDown a → station a t = station a s) ∧
    (∀ a, ¬ hasDown a → station a t = (station a s).map fun st =>
      { st with inFlight := st.inFlight.map fun r => freshInFlight r.handle }) ∧
    (hasDown 31 → t.dlv = s.dlv) ∧
    (¬ hasDown 31 → t.dlv.inFlight = s.dlv.inFlight.map fun r => freshBroadcast r.handle) ∧
    (s.sbk.commit ≠ none → swapPending s = t) ∧ (s.sbk.commit = none → swapPending s = s)

/-! ### Stations -/

/-- ENROLL: BAD_ARGUMENT where a field is out of range; an address without a record gets a fresh one (CREATED), and one with
a record gets the three settings alone (UPDATED); either way the address leaves the stranger set (R39, R40, R41, R57). -/
def Obligations.EnrollCreatesOrUpdates : Prop :=
  ∀ (tag a c m h : Byte) (rest : List Request) (s : State), CanTake ⟨0x0A, tag, [a, c, m, h]⟩ rest s →
    let fits := 1 ≤ a ∧ a ≤ 30 ∧ (c ≤ 0x0F ∨ c = 0xFF) ∧ m ≤ 3 ∧ h ≤ 1
    let cls : StationClass := if c = 0xFF then .any else .is c
    let mode : NoticeMode := match m.toNat with | 0 => .none | 1 => .onLoss | 2 => .onGain | _ => .both
    let left : State := { s with stt.strangers := s.stt.strangers.filter fun x => x.address ≠ a.toNat }
    (¬ fits → exec (.enroll tag [a, c, m, h]) s = .next (arbitrate (answered rest 0x8A tag [0x03] s))) ∧
    (fits → station a.toNat s = none →
      exec (.enroll tag [a, c, m, h]) s = .next (arbitrate (answered rest 0x8A tag [0x00, 0x00]
        (setStation a.toNat (some
          { cls := cls, mode := mode, hold := decide (h = 1), presence := .absent, good := 0, miss := 0, downNext := 0,
            upExpected := 0, lastAccepted := none, queue := [], inFlight := none, context := none, heard := false,
            busyAnswer := false, counters := Vector.replicate 31 0 }) left)))) ∧
    (∀ st, fits → station a.toNat s = some st →
      exec (.enroll tag [a, c, m, h]) s = .next (arbitrate (answered rest 0x8A tag [0x00, 0x01]
        (setStation a.toNat (some { st with cls := cls, mode := mode, hold := decide (h = 1) }) left))))

/-- RETIRE ends every message of the station, the head FAILED and the others DISCARDED with reason RETIRED, in queue order,
returns its context's buffer, removes the record and answers the number of messages ended; every other station, queue and
message is as it was (R43, R97, R122). -/
def Obligations.RetireEndsTheQueueAndTheRecord : Prop :=
  (∀ (tag a : Byte) (rest : List Request) (s : State), CanTake ⟨0x0B, tag, [a]⟩ rest s →
    (a = 0 ∨ 30 < a → exec (.retire tag [a]) s = .next (arbitrate (answered rest 0x8B tag [0x03] s))) ∧
    (1 ≤ a → a ≤ 30 → station a.toNat s = none →
      exec (.retire tag [a]) s = .next (arbitrate (answered rest 0x8B tag [0x06] s)))) ∧
  (∀ (tag a : Byte) (rest : List Request) (st : Station) (s : State), CanTake ⟨0x0B, tag, [a]⟩ rest s → QueueInv s →
    station a.toNat s = some st →
    let notices := queueEndNotices a.toNat .retired true st.queue
    let counted := countAll (queueEndCounts true st.queue) s
    let held := if st.context.isSome then 1 else 0
    ∃ v, exec (.retire tag [a]) s =
        .next (arbitrate (answered rest 0x8B tag [0x00, BitVec.ofNat 8 st.queue.length] v)) ∧
      v = { s with stt.records := v.stt.records, mpl := v.mpl, counters := (offerAll notices counted).counters,
                   ntq := (offerAll notices s).ntq } ∧
      station a.toNat v = none ∧ (∀ b, b ≠ a.toNat → station b v = station b s) ∧
      v.mpl = { s.mpl with
        free := s.mpl.free + st.queue.length + held, down := s.mpl.down - st.queue.length, up := s.mpl.up - held,
        messages := s.mpl.messages.filter fun m => m.dest ≠ a.toNat })

/-- STATION_QUERY and STRANGERS answer as laid out in spec/11, 11.5; STATION_QUERY changes nothing, and STRANGERS clears the
stranger set it has read (R45, R56). -/
def Obligations.StationsAndStrangersAreRead : Prop :=
  (∀ (tag a : Byte) (rest : List Request) (s : State), CanTake ⟨0x0C, tag, [a]⟩ rest s →
    (a = 0 ∨ 30 < a → exec (.stationQuery tag [a]) s = .next (arbitrate (answered rest 0x8C tag [0x03] s))) ∧
    (1 ≤ a → a ≤ 30 → station a.toNat s = none →
      exec (.stationQuery tag [a]) s = .next (arbitrate (answered rest 0x8C tag [0x06] s))) ∧
    (∀ st, station a.toNat s = some st →
      exec (.stationQuery tag [a]) s = .next (arbitrate (answered rest 0x8C tag
        ([0x00, (match st.cls with | .any => 0xFF | .is c => c),
          (match st.mode with | .none => 0 | .onLoss => 1 | .onGain => 2 | .both => 3), (if st.hold then 1 else 0),
          (match st.presence with | .absent => 0 | .acquiring => 1 | .present => 2), BitVec.ofNat 8 st.good,
          BitVec.ofNat 8 st.miss, st.downNext.setWidth 8, st.upExpected.setWidth 8] ++
         (match st.lastAccepted with | none => [0, 0] | some q => [1, q.setWidth 8]) ++
         [BitVec.ofNat 8 st.queue.length] ++
         (match st.inFlight with
          | none => [0, 0, 0, 0, 0, 0, 0, 0]
          | some r => [1, BitVec.ofNat 8 (r.handle / 256), BitVec.ofNat 8 r.handle, BitVec.ofNat 8 r.index,
              BitVec.ofNat 8 r.retries, BitVec.ofNat 8 r.busy, (match r.phase with | .ready => 0 | .awaitingAck => 1),
              (if r.started then 1 else 0)]) ++
         (match st.context with
          | none => [0, 0, 0]
          | some c => [1, BitVec.ofNat 8 c.bytes.length, BitVec.ofNat 8 c.segments]) ++
         [if st.heard then 1 else 0]) s)))) ∧
  (∀ (tag : Byte) (rest : List Request) (s : State), CanTake ⟨0x0D, tag, []⟩ rest s →
    exec (.strangers tag []) s = .next (arbitrate (answered rest 0x8D tag
      (0x00 :: BitVec.ofNat 8 s.stt.strangers.length :: s.stt.strangers.flatMap fun x =>
        [BitVec.ofNat 8 x.address, x.cls, match x.reason with | .unknown => 0 | .cls => 1])
      { s with stt.strangers := [] })))

/-- The presence evaluation: the stations 1 to 30 in ascending order, then every heard flag cleared. An unenrolled address and
one without an UP entry are passed over; a heard station gains, and one not heard misses without yet losing (R47, R48, R49,
R50, R52). -/
def Obligations.PresenceIsEvaluatedPerStation : Prop :=
  (∀ s : State, let t := (List.range' 1 30).foldl (fun t a => evaluate s.sbk.active a t) s
    evaluatePresence s =
      { t with stt.records := t.stt.records.map fun r => r.map fun st => { st with heard := false } }) ∧
  (∀ (b : Bank) (a : Nat) (s : State), station a s = none → evaluate b a s = s) ∧
  (∀ (b : Bank) (a : Nat) (st : Station) (s : State), station a s = some st → ¬ HasUp b a → evaluate b a s = s) ∧
  (∀ (b : Bank) (a : Nat) (st : Station) (s : State), station a s = some st → HasUp b a → st.heard = true →
    let good := min (st.good + 1) s.rex.config.lockIn
    let counted := countIn .cyclesHeard { st with miss := 0 }
    (st.presence = .absent → evaluate b a s = setStation a (some { counted with
      good := 1, presence := .acquiring, downNext := 0, upExpected := 0, lastAccepted := none, busyAnswer := false }) s) ∧
    (st.presence = .acquiring → good < s.rex.config.lockIn →
      evaluate b a s = setStation a (some { counted with good := good }) s) ∧
    (st.presence = .acquiring → good = s.rex.config.lockIn →
      let t := countGlobal .stationsGained
        (setStation a (some (countIn .gains { counted with good := good, presence := .present })) s)
      evaluate b a s = if st.mode = .onGain ∨ st.mode = .both then offer (.presence a .acquiring .present) t else t) ∧
    (st.presence = .present → evaluate b a s = setStation a (some { counted with good := good }) s)) ∧
  (∀ (b : Bank) (a : Nat) (st : Station) (s : State), station a s = some st → HasUp b a → st.heard = false →
    let miss := min (st.miss + 1) s.rex.config.lockOut
    let counted := countIn .cyclesMissed { st with good := 0, miss := miss }
    (miss < s.rex.config.lockOut ∨ st.presence = .absent → evaluate b a s = setStation a (some counted) s) ∧
    (miss = s.rex.config.lockOut → st.presence = .acquiring →
      evaluate b a s = setStation a (some (countIn .failedAcquisitions { counted with presence := .absent })) s))

/-- A PRESENT station whose miss count reaches the lock-out count is lost: ABSENT, the loss reported where the notice mode
says so, its in-flight message FAILED and, unless they are held, the queued ones DISCARDED, with reason STATION_LOST, and its
context discarded (R50, R52, R53, R85, R97). -/
def Obligations.ALossEndsWhatTheStationHeld : Prop :=
  ∀ (b : Bank) (a : Nat) (st : Station) (s : State), QueueInv s → station a s = some st → HasUp b a →
    st.heard = false → st.presence = .present → min (st.miss + 1) s.rex.config.lockOut = s.rex.config.lockOut →
    let queue := if st.hold then st.queue.tail else []
    let notices := (if st.mode = .onLoss ∨ st.mode = .both then [Notice.presence a .present .absent] else []) ++
      queueEndNotices a .stationLost (!st.hold) st.queue
    let counted := countAll (.stationsLost :: queueEndCounts (!st.hold) st.queue) s
    let ended := st.queue.length - queue.length
    let held := if st.context.isSome then 1 else 0
    let lost := countIn .losses (countIn .cyclesMissed
      { st with good := 0, miss := s.rex.config.lockOut, presence := .absent, context := none, queue := queue,
                inFlight := queue.head?.map freshInFlight })
    let v := evaluate b a s
    v = { s with stt.records := v.stt.records, mpl := v.mpl, counters := (offerAll notices counted).counters,
                 ntq := (offerAll notices s).ntq } ∧
    station a v = some (if st.queue = [] then lost else countIn .messagesFailed lost) ∧
    (∀ b, b ≠ a → station b v = station b s) ∧
    v.mpl = { s.mpl with
      free := s.mpl.free + ended + held, down := s.mpl.down - ended, up := s.mpl.up - held,
      messages := markedFor a queue (s.mpl.messages.filter fun m => m.dest ≠ a ∨ m.handle ∈ queue) }

/-! ### Admission -/

/-- An ADMIT slot that holds no valid JOIN: SILENT and LATE leave the result NONE, COLLIDED, MALFORMED and CRC_BAD leave
COLLIDED, and a GOOD segment that is no valid JOIN leaves NONE, each with its counter (R64, R65, R66, R136). A part whose class
is not settled yet goes on and ADM hears nothing (R142); a command on a part already reported is none that may happen, log 1
(the pieces in which a part is heard are the model's choice, log 15). -/
def Obligations.AdmitSlotsWithoutAJoin : Prop :=
  (∀ (edges : List Edge) (upTo : Nat) (heard : RxPhase) (s : State), held s = false →
    s.lif.line = .receive .admission heard →
    (partOpen heard = true → partOpen (hear edges upTo heard) = true → exec (.admitSlotReport edges upTo) s =
      .next (arbitrate { s with lif.line := .receive .admission (hear edges upTo heard) })) ∧
    (partOpen heard = false → exec (.admitSlotReport edges upTo) s = .next s)) ∧
  ∀ (edges : List Edge) (upTo : Nat) (heard : RxPhase) (r : Reception) (s : State), held s = false →
    s.lif.line = .receive .admission heard → partOpen heard = true → hear edges upTo heard = .settled r →
    let t := partReported .admission r s
    (r.cls = .silent → exec (.admitSlotReport edges upTo) s =
      .next (arbitrate { t with adm := { result := .none, echo := 0 } })) ∧
    (r.cls = .late → exec (.admitSlotReport edges upTo) s =
      .next (arbitrate { countGlobal .admitLate t with adm := { result := .none, echo := 0 } })) ∧
    (r.cls = .collided ∨ r.cls = .malformed ∨ r.cls = .crcBad → exec (.admitSlotReport edges upTo) s =
      .next (arbitrate { countGlobal .admitCollisions t with adm := { result := .collided, echo := 0 } })) ∧
    (∀ seg, r.cls = .good seg →
      ¬(seg.kind = .join ∧ seg.address ≠ 0 ∧ seg.address ≠ 31 ∧ seg.payload.length = 2 ∧ seg.echo = s.cye.cycle) →
      exec (.admitSlotReport edges upTo) s =
        .next (arbitrate { countGlobal .admitInvalid t with adm := { result := .none, echo := 0 } }))

/-- A valid JOIN is resolved against its record: refused where there is none or the class differs, with a stranger entry made
once and reported; otherwise accepted, which makes the station ACQUIRING with counts 0 and sequences reset, and restarts a
PRESENT one: its in-flight message rewound and its context discarded (R55, R67, R68, R69, R70, R71). -/
def Obligations.AValidJoinIsResolved : Prop :=
  ∀ (edges : List Edge) (upTo : Nat) (part : RxPhase) (r : Reception) (seg : Segment) (b0 b1 : Byte) (s : State),
    held s = false → s.lif.line = .receive .admission part → partOpen part = true → hear edges upTo part = .settled r →
    r.cls = .good seg → seg.kind = .join → seg.address ≠ 0 → seg.address ≠ 31 → seg.payload = [b0, b1] → seg.echo = s.cye.cycle → StrangerInv s →
    let a := seg.address.toNat
    let cls := b0 &&& 0x0F
    let result := fun (x : AdmitResult) => { partReported .admission r s with adm := { result := x, echo := a } }
    let refused := fun (why : StrangerReason) (t : State) =>
      if ∃ x ∈ t.stt.strangers, x.address = a then t
      else offer (.stranger a cls why) (countGlobal .strangerInsertions
        { t with stt.strangers := t.stt.strangers.filter (fun x => x.address < a) ++
          { address := a, cls := cls, reason := why } :: t.stt.strangers.filter fun x => a < x.address })
    let joined := fun (st : Station) => countIn .joinsAccepted
      { st with presence := .acquiring, good := 0, miss := 0, downNext := 0, upExpected := 0, lastAccepted := none,
                busyAnswer := false }
    (station a s = none → exec (.admitSlotReport edges upTo) s =
      .next (arbitrate (countGlobal .joinsRefusedUnknown (refused .unknown (result .refusedUnknown))))) ∧
    (∀ st, station a s = some st → st.cls ≠ .any → st.cls ≠ .is cls → exec (.admitSlotReport edges upTo) s =
      .next (arbitrate (setStation a (some (countIn .joinsRefusedForClass st)) (refused .cls (result .refusedClass))))) ∧
    (∀ st, station a s = some st → (st.cls = .any ∨ st.cls = .is cls) →
      (st.presence = .absent → exec (.admitSlotReport edges upTo) s =
        .next (arbitrate (offer (.joinHeard a cls) (setStation a (some (joined st)) (result .accepted))))) ∧
      (st.presence = .acquiring → exec (.admitSlotReport edges upTo) s =
        .next (arbitrate (setStation a (some (joined st)) (result .accepted)))) ∧
      (st.presence = .present → exec (.admitSlotReport edges upTo) s =
        .next (arbitrate (offer (.restarted a) (setStation a (some (countIn .restarts
          { joined st with context := none, inFlight := st.inFlight.map fun r => freshInFlight r.handle }))
          (if st.context.isSome then returnUp (result .accepted) else result .accepted))))))

/-! ### Downlink -/

/-- SEND is refused with the first status of R81 that applies, and a refusal for want of a buffer is counted; otherwise it is
accepted and answered OK with a handle (R78, R81; which handle, and what an accepted SEND does, says AnAcceptedSendIsQueued). -/
def Obligations.SendIsRefusedInItsOrder : Prop :=
  ∀ (tag dest flag : Byte) (bytes : List Byte) (rest : List Request) (s : State),
    CanTake ⟨0x0E, tag, dest :: flag :: bytes⟩ rest s →
    let answer := fun (body : List Byte) (t : State) =>
      exec (.send tag (dest :: flag :: bytes)) s = .next (arbitrate (answered rest 0x8E tag body t))
    if bytes = [] ∨ 64 < bytes.length then answer [0x02] s
    else if dest = 0 ∨ 31 < dest ∨ 1 < flag then answer [0x03] s
    else if dest ≠ 31 ∧ station dest.toNat s = none then answer [0x06] s
    else if dest ≠ 31 ∧ (station dest.toNat s).any (fun st => decide (st.presence ≠ .present) && !st.hold) = true then
      answer [0x09] s
    else if 8 ≤ (queueOf dest.toNat s).length then answer [0x07] s
    else if s.mpl.free = 0 ∨ 32 ≤ s.mpl.down then answer [0x08] (countGlobal .downlinkLendRefusals s)
    else SendFits dest flag bytes s ∧ ∃ h v, answer [0x00, BitVec.ofNat 8 (h / 256), BitVec.ofNat 8 h] v

/-- An accepted SEND takes the first handle from the handle counter on that no message holds, lends a buffer, writes the
descriptor, and joins its queue: a non-urgent message at the tail, an urgent one behind the last that is urgent or started
(R77, R79, R80, R82, R84, R85). -/
def Obligations.AnAcceptedSendIsQueued : Prop :=
  ∀ (tag dest flag : Byte) (bytes : List Byte) (rest : List Request) (s : State),
    CanTake ⟨0x0E, tag, dest :: flag :: bytes⟩ rest s → PoolInv s → QueueInv s → SendFits dest flag bytes s →
    let d := dest.toNat
    let ahead := fun (k : Nat) => startedHandle d s = some k ∨ ∃ m ∈ s.mpl.messages, m.handle = k ∧ m.urgent = true
    let handleAt := fun (j : Nat) => (s.mpl.handleCounter - 1 + j) % 65535 + 1
    ∃ h v, exec (.send tag (dest :: flag :: bytes)) s = .next (arbitrate (answered rest 0x8E tag
        [0x00, BitVec.ofNat 8 (h / 256), BitVec.ofNat 8 h] v)) ∧
      (∃ j, h = handleAt j ∧ (∀ m ∈ s.mpl.messages, m.handle ≠ h) ∧
        ∀ k < j, ∃ m ∈ s.mpl.messages, m.handle = handleAt k) ∧
      v = { s with stt.records := v.stt.records, mpl := v.mpl, dlv := v.dlv } ∧
      v.mpl = { free := s.mpl.free - 1, down := s.mpl.down + 1, up := s.mpl.up, handleCounter := h % 65535 + 1,
                messages := markedFor d (queueOf d v) (s.mpl.messages ++
                  [{ handle := h, dest := d, urgent := decide (flag = 1), bytes := bytes, state := .queued }]) } ∧
      QueueIsNow d (queueOf d v) id s v ∧
      ∃ front behind, queueOf d s = front ++ behind ∧ queueOf d v = front ++ h :: behind ∧
        (flag = 0 → behind = []) ∧
        (flag = 1 → (∀ k ∈ behind, ¬ ahead k) ∧ ∀ k, front.getLast? = some k → ahead k)

/-- A message ends: it leaves its queue, whose next message becomes the in-flight one, its buffer returns, its result is
counted, for a station also in its record where it is DELIVERED or FAILED, and its OUTCOME is offered (R97, R103). -/
def Obligations.AMessageEndsWhole : Prop :=
  ∀ (m : Message) (r : Result) (why : Reason) (s : State), QueueInv s → m ∈ s.mpl.messages →
    let queue := (queueOf m.dest s).filter fun k => k ≠ m.handle
    let counter : GlobalCounter := match r with
      | .delivered => .delivered | .failed => .failed | .discarded => .discarded | .cancelled => .cancelled
    let counted : Station → Station := match r with
      | .delivered => countIn .messagesDelivered
      | .failed => countIn .messagesFailed
      | .discarded => id
      | .cancelled => id
    let notice := Notice.outcome m.handle m.dest r why
    let v := endMessage m.handle r why s
    v = { s with stt.records := v.stt.records, mpl := v.mpl, dlv := v.dlv,
                 counters := (offer notice (countGlobal counter s)).counters, ntq := (offer notice s).ntq } ∧
    QueueIsNow m.dest queue counted s v ∧
    v.mpl = { s.mpl with
      free := s.mpl.free + 1, down := s.mpl.down - 1,
      messages := markedFor m.dest queue (s.mpl.messages.filter fun x => x.handle ≠ m.handle) }

/-- CANCEL ends a message that has not started, and answers NO_SUCH_MESSAGE or TOO_LATE otherwise. FLUSH ends the messages of
one queue that have not started, DISCARDED with reason FLUSHED in queue order, and answers how many (R98, R100). -/
def Obligations.CancelAndFlushSpareAStartedMessage : Prop :=
  (∀ (tag b0 b1 : Byte) (rest : List Request) (s : State), CanTake ⟨0x0F, tag, [b0, b1]⟩ rest s →
    let h := 256 * b0.toNat + b1.toNat
    ((∀ m ∈ s.mpl.messages, m.handle ≠ h) →
      exec (.cancel tag [b0, b1]) s = .next (arbitrate (answered rest 0x8F tag [0x0A] s))) ∧
    (∀ m ∈ s.mpl.messages, QueueInv s → m.handle = h → startedHandle m.dest s = some h →
      exec (.cancel tag [b0, b1]) s = .next (arbitrate (answered rest 0x8F tag [0x0B] s))) ∧
    (∀ m ∈ s.mpl.messages, QueueInv s → m.handle = h → startedHandle m.dest s ≠ some h →
      exec (.cancel tag [b0, b1]) s =
        .next (arbitrate (answered rest 0x8F tag [0x00] (endMessage h .cancelled .none s))))) ∧
  (∀ (tag a : Byte) (rest : List Request) (s : State), CanTake ⟨0x10, tag, [a]⟩ rest s →
    let hs := (queueOf a.toNat s).filter fun h => startedHandle a.toNat s ≠ some h
    (a = 0 ∨ 31 < a → exec (.flush tag [a]) s = .next (arbitrate (answered rest 0x90 tag [0x03] s))) ∧
    (1 ≤ a → a ≤ 30 → station a.toNat s = none →
      exec (.flush tag [a]) s = .next (arbitrate (answered rest 0x90 tag [0x06] s))) ∧
    ((a = 31 ∨ (station a.toNat s).isSome) → exec (.flush tag [a]) s =
      .next (arbitrate (answered rest 0x90 tag [0x00, BitVec.ofNat 8 hs.length]
        (hs.foldl (fun t h => endMessage h .discarded .flushed t) s)))) ∧
    ((a = 31 ∨ (station a.toNat s).isSome) → QueueInv s →
      let v := hs.foldl (fun t h => endMessage h .discarded .flushed t) s
      queueOf a.toNat v = (startedHandle a.toNat s).toList ∧
      v.mpl.messages = (s.mpl.messages.filter fun m => m.handle ∉ hs) ∧
      v.ntq = (offerAll (hs.map fun h => .outcome h a.toNat .discarded .flushed) s).ntq))

/-- MSG_STATUS answers the descriptor, the place in the queue and, for an IN_FLIGHT message, its in-flight record, as laid out
in spec/11, 11.5, and changes nothing (R101). -/
def Obligations.MsgStatusAnswersTheDescriptor : Prop :=
  ∀ (tag b0 b1 : Byte) (rest : List Request) (s : State), CanTake ⟨0x11, tag, [b0, b1]⟩ rest s →
    let h := 256 * b0.toNat + b1.toNat
    let seq := fun (q : Option Seq) => match q with | none => [0, 0] | some q => [(1 : Byte), q.setWidth 8]
    ((∀ m ∈ s.mpl.messages, m.handle ≠ h) →
      exec (.msgStatus tag [b0, b1]) s = .next (arbitrate (answered rest 0x91 tag [0x0A] s))) ∧
    (∀ m, s.mpl.messages.find? (fun m => m.handle = h) = some m →
      let head : List Byte := [0x00, BitVec.ofNat 8 m.dest, (if m.urgent then 1 else 0), BitVec.ofNat 8 m.bytes.length,
        (match m.state with | .queued => 0 | .inFlight => 1), BitVec.ofNat 8 ((queueOf m.dest s).idxOf h)]
      (m.state = .queued → exec (.msgStatus tag [b0, b1]) s =
        .next (arbitrate (answered rest 0x91 tag (head ++ [0, 0, 0, 0, 0, 0, 0, 0]) s))) ∧
      (∀ st r, m.state = .inFlight → m.dest ≠ 31 → station m.dest s = some st → st.inFlight = some r →
        exec (.msgStatus tag [b0, b1]) s = .next (arbitrate (answered rest 0x91 tag
          (head ++ [BitVec.ofNat 8 r.index] ++ seq r.seqSent ++ [(if r.started then 1 else 0), BitVec.ofNat 8 r.retries,
            BitVec.ofNat 8 r.busy, (match r.phase with | .ready => 0 | .awaitingAck => 1), 0]) s))) ∧
      (∀ r, m.state = .inFlight → m.dest = 31 → s.dlv.inFlight = some r →
        exec (.msgStatus tag [b0, b1]) s = .next (arbitrate (answered rest 0x91 tag
          (head ++ [BitVec.ofNat 8 r.index] ++ seq r.seqSent ++
            [(if r.started then 1 else 0), 0, 0, 0, BitVec.ofNat 8 r.sends]) s))))

/-- The segments of a message, put together in order, are the message: ceil(L / 8) of them, every one but the last of eight
bytes, and the last of one to eight (R88). -/
def Obligations.TheSegmentsMakeUpTheMessage : Prop :=
  ∀ bytes : List Byte, bytes ≠ [] →
    (List.range (segmentCount bytes.length)).flatMap (segmentBytes bytes) = bytes ∧
    8 * (segmentCount bytes.length - 1) < bytes.length ∧ bytes.length ≤ 8 * segmentCount bytes.length ∧
    ∀ i < segmentCount bytes.length,
      (i + 1 < segmentCount bytes.length → (segmentBytes bytes i).length = 8) ∧
      (i + 1 = segmentCount bytes.length → (segmentBytes bytes i).length = bytes.length - 8 * i)

/-- A DOWN slot of a station. Without a record it is silent. DATA goes to a PRESENT station whose in-flight message is READY:
its sequence is the downlink next sequence on a first sending, which rises, and the sequence already sent on a resend; the
record is started and awaits its acknowledgement. EMPTY goes in every other case. Both carry ULR's acknowledgement (R87, R88,
R89, R114, R133). -/
def Obligations.StationDownSlots : Prop :=
  ∀ (a : Nat) (s : State), SlotCanStart s → entryAt s.sbk.active s.cye.slot = { kind := .down, owner := a } → a ≤ 30 →
    let t := { s with cye.slot := s.cye.slot + 1 }
    let segment := fun (st : Station) (kind : SegKind) (q : Seq) (first last : Bool) (payload : List Byte) =>
      ({ kind := kind, address := BitVec.ofNat 5 a, seq := q, first := first, last := last,
         ackValid := st.lastAccepted.isSome, busy := st.busyAnswer, ackSeq := st.lastAccepted.getD 0,
         echo := s.cye.cycle, payload := payload } : Segment)
    (station a s = none → exec .slotStart s = .next (arbitrate { t with lif.line := .idle })) ∧
    (∀ st, station a s = some st →
      (st.presence ≠ .present ∨ st.inFlight = none ∨ (∃ r, st.inFlight = some r ∧ r.phase = .awaitingAck)) →
      exec .slotStart s = .next (arbitrate (countGlobal .transmissionsBegun
        { t with lif.line := .send (segment st .empty 0 false false []) .lead }))) ∧
    (∀ st r m, station a s = some st → st.presence = .present → st.inFlight = some r → r.phase = .ready →
      s.mpl.messages.find? (fun m => m.handle = r.handle) = some m →
      let data := fun (q : Seq) => LineState.send (segment st .data q (decide (r.index = 0))
        (decide (r.index + 1 = segmentCount m.bytes.length)) (segmentBytes m.bytes r.index)) .lead
      let sent := fun (q : Seq) => some { r with seqSent := some q, started := true, phase := Phase.awaitingAck }
      (r.seqSent = none → exec .slotStart s = .next (arbitrate (countGlobal .transmissionsBegun
        { setStation a (some (countIn .dataSegmentsSent
            { st with downNext := st.downNext + 1, inFlight := sent st.downNext })) t with
          lif.line := data st.downNext }))) ∧
      (∀ q, r.seqSent = some q → exec .slotStart s = .next (arbitrate (countGlobal .transmissionsBegun
        { setStation a (some (countIn .segmentsResent { st with inFlight := sent q })) t with lif.line := data q }))))

/-- A DOWN slot of owner 31. An empty broadcast queue leaves it silent; otherwise the current segment goes out under its one
sequence, without acknowledgement fields; after repeats + 1 sends the next segment is current, and with the last one the
message ends DELIVERED (R90, R97). -/
def Obligations.BroadcastDownSlots : Prop :=
  ∀ s : State, SlotCanStart s → entryAt s.sbk.active s.cye.slot = { kind := .down, owner := 31 } →
    let t := { s with cye.slot := s.cye.slot + 1 }
    (s.dlv.inFlight = none → exec .slotStart s = .next (arbitrate { t with lif.line := .idle })) ∧
    (∀ r m, s.dlv.inFlight = some r → s.mpl.messages.find? (fun m => m.handle = r.handle) = some m →
      let q := r.seqSent.getD s.dlv.next
      let sent := fun (record : BroadcastInFlight) =>
        countGlobal .broadcastSends (countGlobal .transmissionsBegun
          { t with
            lif.line := .send
              { kind := .data, address := 31, seq := q, first := decide (r.index = 0),
                last := decide (r.index + 1 = segmentCount m.bytes.length), ackValid := false, busy := false, ackSeq := 0,
                echo := s.cye.cycle, payload := segmentBytes m.bytes r.index }
              .lead,
            dlv.next := if r.seqSent = none then s.dlv.next + 1 else s.dlv.next, dlv.inFlight := some record })
      (r.sends ≠ s.rex.config.repeats → exec .slotStart s =
        .next (arbitrate (sent { r with seqSent := some q, sends := r.sends + 1, started := true }))) ∧
      (r.sends = s.rex.config.repeats → r.index + 1 ≠ segmentCount m.bytes.length → exec .slotStart s =
        .next (arbitrate (sent { r with index := r.index + 1, seqSent := none, sends := 0, started := true }))) ∧
      (r.sends = s.rex.config.repeats → r.index + 1 = segmentCount m.bytes.length →
        ∃ record, record.handle = r.handle ∧ exec .slotStart s =
          .next (arbitrate (endMessage r.handle .delivered .none (sent record)))))

/-- DLV judges a segment that awaits its acknowledgement, once per report: acknowledged, the message moves on or ends
DELIVERED; BUSY, it goes out again, until the sixteenth in a row ends it; unanswered, it goes out again within the retry limit
and then ends. Where none awaits, nothing happens (R92, R93, R94). -/
def Obligations.OutstandingSegmentsAreJudged : Prop :=
  (∀ (a : Nat) (ans : Option Answer) (s : State),
    (∀ st r, station a s = some st → st.inFlight = some r → r.phase = .ready) → takeAnswer a ans s = s) ∧
  (∀ (a : Nat) (ans : Option Answer) (st : Station) (r : InFlight) (m : Message) (s : State),
    station a s = some st → st.inFlight = some r → r.phase = .awaitingAck →
    s.mpl.messages.find? (fun m => m.handle = r.handle) = some m →
    let acked := ∃ x, ans = some x ∧ x.ackValid = true ∧ r.seqSent = some x.ackSeq
    let busy := ∃ x, ans = some x ∧ x.busy = true
    let again := fun (c : StationCounter) (record : InFlight) =>
      setStation a (some (countIn c { st with inFlight := some record })) s
    let ends := fun (c : StationCounter) (result : Result) (why : Reason) =>
      endMessage r.handle result why (setStation a (some (countIn c st)) s)
    (acked → r.index + 1 = segmentCount m.bytes.length →
      takeAnswer a ans s = ends .segmentsAcknowledged .delivered .none) ∧
    (acked → r.index + 1 ≠ segmentCount m.bytes.length →
      takeAnswer a ans s = again .segmentsAcknowledged
        { r with index := r.index + 1, seqSent := none, retries := 0, busy := 0, phase := .ready }) ∧
    (¬ acked → busy → r.busy ≠ 15 →
      takeAnswer a ans s = again .busyAnswers { r with busy := r.busy + 1, phase := .ready }) ∧
    (¬ acked → busy → r.busy = 15 → takeAnswer a ans s = ends .busyAnswers .failed .stationBusy) ∧
    (¬ acked → ¬ busy → r.retries < s.rex.config.retryLimit →
      takeAnswer a ans s = again .unansweredJudgements { r with retries := r.retries + 1, busy := 0, phase := .ready }) ∧
    (¬ acked → ¬ busy → s.rex.config.retryLimit ≤ r.retries →
      takeAnswer a ans s = ends .unansweredJudgements .failed .noAck))

/-! ### Uplink -/

/-- An UP slot without a current segment is judged by its class: of an unenrolled owner a GOOD segment is counted and nothing
more; of an enrolled one the slot is counted as silent, late, damaged, stray, stale or misplaced, and DLV hears of no answer
(R109, R110, R111, R112, R136). A part whose class is not settled yet goes on and ULR hears nothing (R142); a command on a part
already reported is none that may happen, log 1 (the pieces in which a part is heard are the model's choice, log 15). -/
def Obligations.UpSlotsWithoutACurrentSegment : Prop :=
  (∀ (edges : List Edge) (upTo : Nat) (heard : RxPhase) (s : State), held s = false → s.lif.line = .receive .up heard →
    (partOpen heard = true → partOpen (hear edges upTo heard) = true → exec (.upSlotReport edges upTo) s =
      .next (arbitrate { s with lif.line := .receive .up (hear edges upTo heard) })) ∧
    (partOpen heard = false → exec (.upSlotReport edges upTo) s = .next s)) ∧
  ∀ (edges : List Edge) (upTo : Nat) (heard : RxPhase) (r : Reception) (s : State), held s = false →
    s.lif.line = .receive .up heard → partOpen heard = true → hear edges upTo heard = .settled r →
    let t := partReported .up r s
    let a := (entryAt s.sbk.active (s.cye.slot - 1)).owner
    (station a s = none → (∀ seg, r.cls ≠ .good seg) → exec (.upSlotReport edges upTo) s = .next (arbitrate t)) ∧
    (station a s = none → (∃ seg, r.cls = .good seg) →
      exec (.upSlotReport edges upTo) s = .next (arbitrate (countGlobal .segmentsFromUnenrolled t))) ∧
    (∀ st, station a s = some st →
      let unanswered := fun (c : StationCounter) =>
        exec (.upSlotReport edges upTo) s = .next (arbitrate (takeAnswer a none (setStation a (some (countIn c st)) t)))
      (r.cls = .silent → unanswered .silentUpSlots) ∧
      (r.cls = .late → unanswered .lateSegments) ∧
      (r.cls = .collided ∨ r.cls = .malformed ∨ r.cls = .crcBad → unanswered .damagedSegments) ∧
      (∀ seg, r.cls = .good seg →
        (seg.address.toNat ≠ a → unanswered .straySegments) ∧
        (seg.address.toNat = a → seg.echo ≠ s.cye.cycle → unanswered .staleSegments) ∧
        (seg.address.toNat = a → seg.echo = s.cye.cycle → seg.kind = .beacon ∨ seg.kind = .join →
          unanswered .misplacedSegments)))

/-- A current segment marks its owner heard. DLV takes its answer; DATA of an owner that is not PRESENT is counted as unjudged;
DATA of a PRESENT owner is taken, and where a segment also awaits DLV's judgement the two are made in either order (R110, R112,
R113, R116). That one of them comes wholly before the other, and that the model's `choices` then rises by 1, is the model's
choice, log 5. -/
def Obligations.ACurrentSegmentIsJudged : Prop :=
  ∀ (edges : List Edge) (upTo : Nat) (part : RxPhase) (r : Reception) (seg : Segment) (st : Station) (s : State),
    held s = false → s.lif.line = .receive .up part → partOpen part = true → hear edges upTo part = .settled r →
    let a := (entryAt s.sbk.active (s.cye.slot - 1)).owner
    station a s = some st → r.cls = .good seg → seg.address.toNat = a → seg.echo = s.cye.cycle →
    let t := partReported .up r s
    let answer := takeAnswer a (some { ackValid := seg.ackValid, ackSeq := seg.ackSeq, busy := seg.busy })
    let heard := { st with heard := true }
    (seg.kind = .empty →
      exec (.upSlotReport edges upTo) s = .next (arbitrate (answer (setStation a (some heard) t)))) ∧
    (seg.kind = .data → st.presence ≠ .present → exec (.upSlotReport edges upTo) s =
      .next (arbitrate (answer (setStation a (some (countIn .unjudgedDataSegments heard)) t)))) ∧
    (seg.kind = .data → st.presence = .present → (∀ r, st.inFlight = some r → r.phase = .ready) →
      exec (.upSlotReport edges upTo) s = .next (arbitrate (takeData a seg (setStation a (some heard) t)))) ∧
    (seg.kind = .data → st.presence = .present → QueueInv s → (∃ r, st.inFlight = some r ∧ r.phase = .awaitingAck) →
      let u := { setStation a (some heard) t with choices := s.choices + 1 }
      exec (.upSlotReport edges upTo) s = .next (arbitrate (takeData a seg (answer u))) ∨
      exec (.upSlotReport edges upTo) s = .next (arbitrate (answer (takeData a seg u))))

/-- DATA of a PRESENT owner. In sequence it is an orphan, an oversize discard, an empty message, a BUSY answer for a full
inbox or for want of a buffer, or accepted, the first of these that applies; otherwise a duplicate or out of sequence (R117,
R118, R119, R120, R122, R123, R126). -/
def Obligations.DataIsTakenInSequence : Prop :=
  ∀ (a : Nat) (seg : Segment) (st : Station) (s : State), station a s = some st →
    let put := fun (st' : Station) (t : State) => setStation a (some st') t
    let acked := { st with lastAccepted := some seg.seq, upExpected := seg.seq + 1, busyAnswer := false }
    let freed := if st.context.isSome then returnUp s else s
    let soFar : Context := if seg.first then { bytes := [], segments := 0 } else st.context.getD { bytes := [], segments := 0 }
    let whole := soFar.bytes ++ seg.payload
    let orphan := seg.first = false ∧ st.context = none
    let oversize := seg.first = false ∧ (64 < whole.length ∨ 8 < soFar.segments + 1)
    let empty := seg.last = true ∧ whole = []
    let full := seg.last = true ∧ 16 ≤ s.ulr.inbox.length
    let unlent := seg.first = true ∧ st.context = none ∧ s.mpl.free = 0
    (seg.seq ≠ st.upExpected → st.lastAccepted = some seg.seq →
      takeData a seg s = put (countIn .duplicates { st with busyAnswer := false }) s) ∧
    (seg.seq ≠ st.upExpected → st.lastAccepted ≠ some seg.seq →
      takeData a seg s = put (countIn .outOfSequence { st with busyAnswer := false }) s) ∧
    (seg.seq = st.upExpected → orphan → takeData a seg s = put (countIn .orphanSegments acked) s) ∧
    (seg.seq = st.upExpected → ¬ orphan → oversize →
      takeData a seg s = put (countIn .oversizeDiscards { acked with context := none }) freed) ∧
    (seg.seq = st.upExpected → ¬ orphan → ¬ oversize → empty →
      takeData a seg s = put (countIn .emptyMessages { acked with context := none }) freed) ∧
    (seg.seq = st.upExpected → ¬ orphan → ¬ oversize → ¬ empty → full →
      takeData a seg s =
        countGlobal .inboxFullAnswers (put (countIn .busyAnswersGiven { st with busyAnswer := true }) s)) ∧
    (seg.seq = st.upExpected → ¬ orphan → ¬ oversize → ¬ empty → ¬ full → unlent →
      takeData a seg s =
        countGlobal .uplinkLendRefusals (put (countIn .busyAnswersGiven { st with busyAnswer := true }) s)) ∧
    (seg.seq = st.upExpected → ¬ orphan → ¬ oversize → ¬ empty → ¬ full → ¬ unlent →
      let lent := if st.context.isSome then s else lendUp s
      let counted := if seg.first = true ∧ st.context.isSome then countIn .contextsAbandoned acked else acked
      (seg.last = false → takeData a seg s = put (countIn .segmentsAccepted
        { counted with context := some { bytes := whole, segments := soFar.segments + 1 } }) lent) ∧
      (seg.last = true →
        let t := countGlobal .messagesCompleted (put (countIn .messagesCompleted (countIn .segmentsAccepted
          { counted with context := none }))
          { lent with
            ulr.inbox := s.ulr.inbox ++
              [{ source := a, bytes := whole, cycle := s.cye.cycle, arrival := s.ulr.arrival }],
            ulr.arrival := s.ulr.arrival + 1 })
        takeData a seg s = if s.ulr.inbox = [] then offer (.uplinkReady 1) t else t))

/-- FETCH takes the oldest inbox entry, or the oldest of a source, answers it with the counts that remain, and returns its
buffer; EMPTY with the inbox count where there is none; BAD_ARGUMENT for a source out of range (R124). -/
def Obligations.FetchTakesTheOldest : Prop :=
  ∀ (tag : Byte) (body : List Byte) (rest : List Request) (s : State), CanTake ⟨0x12, tag, body⟩ rest s →
    body.length ≤ 1 →
    let suits := fun (e : InboxEntry) => ∀ a ∈ body, e.source = a.toNat
    ((body = [0] ∨ ∃ a, body = [a] ∧ 30 < a) →
      exec (.fetch tag body) s = .next (arbitrate (answered rest 0x92 tag [0x03] s))) ∧
    ((∀ a ∈ body, 1 ≤ a ∧ a ≤ 30) →
      ((∀ e ∈ s.ulr.inbox, ¬ suits e) →
        exec (.fetch tag body) s =
          .next (arbitrate (answered rest 0x92 tag [0x0C, BitVec.ofNat 8 s.ulr.inbox.length] s))) ∧
      (∀ older e newer, s.ulr.inbox = older ++ e :: newer → (∀ x ∈ older, ¬ suits x) → suits e →
        exec (.fetch tag body) s = .next (arbitrate (answered rest 0x92 tag
          ([0x00, BitVec.ofNat 8 e.source, BitVec.ofNat 8 (e.arrival.toNat / 256), BitVec.ofNat 8 e.arrival.toNat, e.cycle,
            BitVec.ofNat 8 (older ++ newer).length,
            BitVec.ofNat 8 ((older ++ newer).countP fun x => x.source = e.source), BitVec.ofNat 8 e.bytes.length] ++
           e.bytes)
          { s with ulr.inbox := older ++ newer, mpl.free := s.mpl.free + 1, mpl.up := s.mpl.up - 1 }))))

/-! ### The line -/

/-- The receive part, class by class. A segment has its preamble, its delimiter, its header with every spare bit 0, its
payload and its CRC, most significant bit first (R131, R196). Sent on an otherwise idle line it is GOOD with every field,
settled at its end and not before, where its preamble begins inside the window; LATE, settled at the closing, where it begins
later and still locks; and GOOD also from a station whose clock is up to 8 % slow or fast (R136, R137, R138, R141). While it
is received, RECEIVE holds the cells decoded so far, the lock run's four with them, the tracked centre and the dated
beginning, and it keeps them with the class (R129, R136). That a LATE part keeps the lock run's four cells is no rule of the
spec but the model's reading of R129 and R136 (log 20, DEDUCED). Whatever the spare bits, the class is GOOD where the
received CRC is the computed one and CRC_BAD where it is another (R132, R140, R141, R196). A header of kind 4 to 7 or of
length 9 to 15 is MALFORMED (R140). Without four level changes each a bit time after the last, within a quarter, the part is
SILENT, with noise if there was any; with four such that date the preamble at 16 or later it is LATE (R136, R137). Where the
delimiter does not end within 24 cells of lock it is COLLIDED; a preamble of up to four cells more is as good, but a segment
that then ends after bit time 152 is COLLIDED (R139, R141). So is one that breaks off, its cells dropped (R138); and one
level change more makes it COLLIDED, except that between two cells of different value it is the boundary transition that R138
accepts there. Times are in thousandths of a bit time (log 8). -/
def Obligations.ASegmentOnTheLineIsReceived : Prop :=
  let preamble : List Bool := [true, false, true, false, true, false, true, false, true, false, true, false, true, false, true, false]
  let delimiter : List Bool := [true, false, true, true, false, false, true, true]
  let bits := fun (n v : Nat) => (List.range n).map fun i => v.testBit (n - 1 - i)
  let ends := fun (edges : List Edge) (cls : RxClass) (atClose : Bool) =>
    (receivePart edges).cls = cls ∧ (receivePart edges).atClose = atClose
  let keeps := fun (edges : List Edge) (dated : Nat) (cells : List Bool) =>
    (receivePart edges).dated = some (dated : Int) ∧ (receivePart edges).cells = cells
  (∀ seg : Segment,
    coveredBits seg =
      bits 3 (match seg.kind with | .beacon => 0 | .data => 1 | .empty => 2 | .join => 3) ++ bits 5 seg.address.toNat ++
      bits 3 seg.seq.toNat ++ [seg.first, seg.last, seg.ackValid, seg.busy, false] ++ bits 3 seg.ackSeq.toNat ++
      bits 4 seg.payload.length ++ [false] ++ bits 8 seg.echo.toNat ++ seg.payload.flatMap (fun b => bits 8 b.toNat) ∧
    segmentCells seg = preamble ++ delimiter ++ coveredBits seg ++ bits 16 (segmentCrc (coveredBits seg)).toNat) ∧
  (∀ edges, hear edges 152000 (.wait []) = .settled (receivePart edges)) ∧
  (∀ (seg : Segment) (t : Nat), seg.payload.length ≤ 8 →
    let edges := segmentEdges t seg
    let cells := segmentCells seg
    (t < 16000 → ends edges (.good seg) false ∧ keeps edges t cells ∧
      (∀ upTo, hear edges upTo (.wait []) = .settled (receivePart edges) ↔ t + 1000 * (72 + 8 * seg.payload.length) ≤ upTo) ∧
      ∀ k upTo, 4 ≤ k → k < 72 + 8 * seg.payload.length → t + 1000 * k + 125 ≤ upTo → upTo < t + 1000 * k + 1000 →
        ∃ track stage, hear edges upTo (.wait []) = .decode track stage ∧ track.dated = t ∧
          track.centre = t + 1000 * k + 500 ∧ decodedCells stage = cells.take k) ∧
    (16000 ≤ t → t + 3500 < 152000 → ends edges .late true ∧ keeps edges t (cells.take 4))) ∧
  (∀ (seg : Segment) (half t : Nat), seg.payload.length ≤ 8 → 460 ≤ half → half ≤ 540 → t + half < 16500 →
    t + 2 * half * (72 + 8 * seg.payload.length) + 1500 < 152000 + 3 * half →
    ends (cellEdges half t (segmentCells seg)) (.good seg) false) ∧
  (∀ (header body : List Bool) (crc : Half) (p t : Nat), header.length = 32 → header[0]? = some false →
    (header.drop 19).take 4 = bits 4 p → p ≤ 8 → body.length = 8 * p → t < 16000 →
    let edges := cellEdges 500 t (preamble ++ delimiter ++ header ++ body ++ bits 16 crc.toNat)
    (crc = segmentCrc (header ++ body) →
      ∃ seg, coveredBits seg = ((header ++ body).set 15 false).set 23 false ∧ ends edges (.good seg) false) ∧
    (crc ≠ segmentCrc (header ++ body) → ends edges .crcBad false)) ∧
  (∀ (header rest : List Bool) (t : Nat), header.length = 32 → t < 16000 →
    (header[0]? = some true ∨ (header[19]? = some true ∧ some true ∈ [header[20]?, header[21]?, header[22]?])) →
    ends (cellEdges 500 t (preamble ++ delimiter ++ header ++ rest)) .malformed false) ∧
  (∀ edges : List Edge, (∀ e ∈ edges, e.time < 152000) → NoLockRun edges →
    ends edges .silent true ∧ ((receivePart edges).noise = true ↔ edges ≠ [])) ∧
  (∀ (before after : List Edge) (a b c d : Edge), let edges := before ++ a :: b :: c :: d :: after
    (∀ e ∈ edges, e.time < 152000) → NoLockRun (before ++ [a, b, c]) → IsLockRun a b c d → 16500 ≤ a.time →
    ends edges .late true) ∧
  (∀ (v : Bool) (rest : List Bool) (t : Nat), 24 ≤ rest.length → t < 16000 →
    let cells := v :: (!v) :: v :: (!v) :: rest
    (∀ i ≤ 20, (cells.drop i).take 8 ≠ delimiter) → ends (cellEdges 500 t cells) .collided false) ∧
  (∀ (seg : Segment) (more t : Nat), seg.payload.length ≤ 8 → more ≤ 2 → t < 16000 →
    let edges := cellEdges 500 t ((List.replicate more [true, false]).flatten ++ segmentCells seg)
    let finish := t + 1000 * (72 + 8 * seg.payload.length + 2 * more)
    (finish < 152000 → ends edges (.good seg) false) ∧ (152000 < finish → ends edges .collided true)) ∧
  (∀ (seg : Segment) (n t : Nat), seg.payload.length ≤ 8 → 4 ≤ n → n < 72 + 8 * seg.payload.length → t < 16000 →
    let edges := cellEdges 500 t ((segmentCells seg).take n)
    ends edges .collided false ∧ keeps edges t []) ∧
  (∀ (seg : Segment) (k t u : Nat) (rising : Bool), seg.payload.length ≤ 8 → 3 ≤ k → k < 72 + 8 * seg.payload.length →
    t < 16000 →
    let clean := segmentEdges t seg
    let edges := clean.filter (fun e => e.time < u) ++ { time := u, rising := rising } :: clean.filter fun e => u ≤ e.time
    (k ≠ 3 → t + 1000 * k + 125 < u → u < t + 1000 * k + 875 → ends edges .collided false) ∧
    (k + 1 < 72 + 8 * seg.payload.length → t + 1000 * k + 875 < u → u < t + 1000 * k + 1125 →
      ends edges (if (segmentCells seg)[k]? = (segmentCells seg)[k + 1]? then .collided else .good seg) false))

/-! ### The host link -/

/-- The bytes of a partial frame: the marker opens it, a length byte of 2 to 250 is kept and enters the check, bytes fill the
body to its length, and the first check byte is held; the gap timer restarts. A stray byte in HUNT and a length byte out of
range are counted, and the receiver hunts with the timer stopped (R151, R152, R153, R154). The frame check and the segment CRC
are 16-bit remainders carried bit by bit, most significant bit first: from 0xFFFF by 0x1021, and from 0x0000 by 0x8005 (R132,
R154). -/
def Obligations.BytesBuildAFrame : Prop :=
  (∀ (poly r : Half) (bit : Bool), crcBit poly r bit = if r.getLsbD 15 = bit then r <<< 1 else (r <<< 1) ^^^ poly) ∧
  (segmentCrc [] = 0x0000 ∧ ∀ bits bit, segmentCrc (bits ++ [bit]) = crcBit 0x8005 (segmentCrc bits) bit) ∧
  (frameCheck [] = 0xFFFF ∧ ∀ bytes b, frameCheck (bytes ++ [b]) = frameCheckByte (frameCheck bytes) b) ∧
  (∀ (r : Half) (b : Byte),
    frameCheckByte r b = (List.range 8).foldl (fun r i => crcBit 0x1021 r (b.getLsbD (7 - i))) r) ∧
  ∀ (b : Byte) (s : State), held s = false → s.hlk.chr = .inCharacter →
    let hunting : Hlk := { s.hlk with rx := .hunt, gap := .stopped, chr := .ready }
    let into := fun (rx : FrameRx) => exec (.frameByteTaken b) s =
      .next (arbitrate { s with hlk := { s.hlk with rx := rx, gap := .running, chr := .ready } })
    (s.hlk.rx = .hunt → b = 0xC3 → into .length) ∧
    (s.hlk.rx = .hunt → b ≠ 0xC3 →
      exec (.huntByteDiscarded b) s = .next (arbitrate { countGlobal .huntBytesDiscarded s with hlk := hunting })) ∧
    (s.hlk.rx = .length → 2 ≤ b → b ≤ 250 → into (.body b.toNat [] (frameCheckByte 0xFFFF b))) ∧
    (s.hlk.rx = .length → b < 2 ∨ 250 < b →
      exec (.lengthError b) s = .next (arbitrate { countGlobal .lengthErrors s with hlk := hunting })) ∧
    (∀ n bytes check, s.hlk.rx = .body n bytes check →
      (bytes.length + 1 < n → into (.body n (bytes ++ [b]) (frameCheckByte check b))) ∧
      (n ≤ bytes.length + 1 → into (.check n (bytes ++ [b]) (frameCheckByte check b) none))) ∧
    (∀ n bytes check, s.hlk.rx = .check n bytes check none → into (.check n bytes check (some b)))

/-- The second check byte. A good frame is counted and handed over, or refused with INBOX_FULL where the inbox or the open
requests are full; a damaged one is counted and answered with REJECT; a refusal with no place free is dropped and counted
(R153, R155, R156, R163). -/
def Obligations.TheSecondCheckByteCompletesAFrame : Prop :=
  ∀ (b high kind tag : Byte) (body : List Byte) (n : Nat) (check : Half) (s : State), held s = false →
    s.hlk.chr = .inCharacter → s.hlk.rx = .check n (kind :: tag :: body) check (some high) →
    let taken := fun (c : GlobalCounter) =>
      { countGlobal c s with hlk := { s.hlk with rx := .hunt, gap := .stopped, chr := .ready } }
    let refused := fun (frame : Frame) (t : State) =>
      { t with ntq.replies := t.ntq.replies ++ [{ frame := frame, place := .refusal }],
               ntq.refusals := t.ntq.refusals + 1 }
    (high ++ b = check → s.rex.inbox.length < 4 → s.rex.openCount < 8 →
      exec (.goodFrame b) s = .next (arbitrate (countGlobal .requestsAccepted
        { taken .framesReceived with
          rex := { s.rex with inbox := s.rex.inbox ++ [{ kind := kind, tag := tag, body := body }],
                              openCount := s.rex.openCount + 1 } }))) ∧
    (high ++ b = check → 4 ≤ s.rex.inbox.length ∨ 8 ≤ s.rex.openCount → s.ntq.refusals < 2 →
      exec (.goodFrame b) s = .next (arbitrate (countGlobal .inboxFullReplies
        (refused { kind := kind ||| 0x80, tag := tag, body := [0x11] } (taken .framesReceived))))) ∧
    (high ++ b = check → 4 ≤ s.rex.inbox.length ∨ 8 ≤ s.rex.openCount → 2 ≤ s.ntq.refusals →
      exec (.goodFrame b) s = .next (arbitrate (countGlobal .inboxFullRepliesDropped (taken .framesReceived)))) ∧
    (high ++ b ≠ check → s.ntq.refusals < 2 →
      exec (.checkError b) s = .next (arbitrate
        (refused { kind := 0x7F, tag := tag, body := [0x12, kind] } (taken .checkErrors)))) ∧
    (high ++ b ≠ check → 2 ≤ s.ntq.refusals →
      exec (.checkError b) s = .next (arbitrate (countGlobal .rejectsDropped (taken .checkErrors))))

/-- Characters: a falling edge whose sample is low begins one and holds a running gap timer, and a glitch does nothing; a bad
stop bit, a break and the gap timeout drop the partial frame, each with its counter; after a break, and after power-on, the
receiver waits for RXD to be high (R149, R157). -/
def Obligations.CharactersAndTheirErrors : Prop :=
  ∀ s : State, held s = false →
    (s.hlk.chr = .ready → exec (.characterStartEdge false) s = .next (arbitrate
      { s with hlk.chr := .inCharacter, hlk.gap := if s.hlk.gap = .running then .held else s.hlk.gap })) ∧
    exec (.characterStartEdge true) s = .next s ∧
    (s.hlk.chr = .inCharacter → exec .characterError s = .next (arbitrate
      { countGlobal .characterErrors s with hlk := { s.hlk with rx := .hunt, gap := .stopped, chr := .ready } })) ∧
    (s.hlk.chr = .inCharacter → exec .breakDetected s = .next (arbitrate
      { countGlobal .breaks s with hlk := { s.hlk with rx := .hunt, gap := .stopped, chr := .waitHigh } })) ∧
    (s.hlk.chr = .waitHigh → exec .rxdReturnsHigh s = .next (arbitrate { s with hlk.chr := .ready })) ∧
    (s.hlk.gap = .running → exec .gapTimeout s = .next (arbitrate
      { countGlobal .gapTimeouts s with hlk := { s.hlk with rx := .hunt, gap := .stopped } }))

/-- Every frame put on the link byte by byte, marker to check, is received as the request it carries: from HUNT, with a place
in the inbox and fewer than eight open requests, its characters one after another leave that request at the tail of the
inbox and nothing else but the counts and the arbiter's choice (R149, R151, R152, R153, R154, R155, R163). -/
def Obligations.AFrameOnTheLinkIsReceived : Prop :=
  ∀ (f : Frame) (rest : List Instr) (s : State), f.body.length ≤ 248 → held s = false → s.hlk.rx = .hunt →
    s.hlk.chr = .ready → s.hlk.gap = .stopped → s.rex.inbox.length < 4 → s.rex.openCount < 8 →
    let bytes := wireBytes f
    let commands := bytes.dropLast.flatMap (fun b => [.characterStartEdge false, .frameByteTaken b]) ++
      [.characterStartEdge false, .goodFrame (bytes.getLastD 0)]
    Sys2Proof.core.run commands.length { s with pending := commands ++ rest } = .next (arbitrate
      { countGlobal .framesReceived (countGlobal .requestsAccepted s) with
        rex := { s.rex with inbox := s.rex.inbox ++ [{ kind := f.kind, tag := f.tag, body := f.body }],
                            openCount := s.rex.openCount + 1 },
        pending := rest })

/-! ### Notices, credits and the outbound arbiter -/

/-- GRANT adds its credits, stopping at 255, and answers the count; a grant of none is refused (R186). -/
def Obligations.GrantAddsCredits : Prop :=
  ∀ (tag n : Byte) (rest : List Request) (s : State), CanTake ⟨0x13, tag, [n]⟩ rest s →
    (n = 0 → exec (.grant tag [n]) s = .next (arbitrate (answered rest 0x93 tag [0x03] s))) ∧
    (n ≠ 0 → exec (.grant tag [n]) s = .next (arbitrate (answered rest 0x93 tag
      [0x00, BitVec.ofNat 8 (min (s.ntq.credits + n.toNat) 255)]
      { s with ntq.credits := min (s.ntq.credits + n.toNat) 255 })))

/-- An offered notice joins the tail while no marker stands and a notice place is free; otherwise it is dropped, counted, and
held in the overflow marker up to 255. ATTN follows a notice that joins an empty queue; a pulse starts with it in pulse mode.
A global counter, or a counter of a station record, that advances stops at 65535 and leaves every other, and all else, as it was
(R58, R175, R176, R183, R184, R191, R192). -/
def Obligations.NoticesJoinOrAreDropped : Prop :=
  (∀ (n : Notice) (s : State),
    (s.ntq.marker = none → s.ntq.notices = [] → offer n s =
      { s with ntq.notices := [n], ntq.attn := true,
               ntq.pulse := if s.rex.config.attnMode = .pulse then some s.rex.config.pulseLength else s.ntq.pulse }) ∧
    (s.ntq.marker = none → s.ntq.notices ≠ [] → s.ntq.notices.length < 23 →
      offer n s = { s with ntq.notices := s.ntq.notices ++ [n] }) ∧
    (s.ntq.marker = none → 23 ≤ s.ntq.notices.length →
      offer n s = countGlobal .noticesDropped { s with ntq.marker := some 1 }) ∧
    (∀ k, s.ntq.marker = some k →
      offer n s = countGlobal .noticesDropped { s with ntq.marker := some (min (k + 1) 255) })) ∧
  (∀ (c : GlobalCounter) (s : State),
    countGlobal c s = { s with counters := (countGlobal c s).counters } ∧
    globalCount c (countGlobal c s) = min (globalCount c s + 1) 65535 ∧
    ∀ d, d ≠ c → globalCount d (countGlobal c s) = globalCount d s) ∧
  (∀ (c : StationCounter) (st : Station),
    countIn c st = { st with counters := (countIn c st).counters } ∧
    stationCount c (countIn c st) = min (stationCount c st + 1) 65535 ∧
    ∀ d, d ≠ c → stationCount d (countIn c st) = stationCount d st)

/-- The arbiter's choice. Nothing starts while a frame is on the transmitter, RESETn is low or a reset is due; the start-up
frame goes first, then the oldest reply, and only then, against a credit, the head notice or a marker standing alone, whose
OVERFLOW frame carries its count and leaves it at 0 (R161, R177, R185, R188, R189, R190). The seven notices have the kinds 0x41
to 0x47, the tag 0x00 and the bodies given here (R195, spec/11, 11.6). -/
def Obligations.TheArbiterChooses : Prop :=
  (let presence := fun (p : Presence) => match p with | .absent => (0 : Byte) | .acquiring => 1 | .present => 2
   let framed := fun (n : Notice) (kind : Byte) (body : List Byte) => noticeFrame n = { kind := kind, tag := 0x00, body := body }
   (∀ a old new, framed (.presence a old new) 0x41 [BitVec.ofNat 8 a, presence old, presence new]) ∧
   (∀ a cls, framed (.joinHeard a cls) 0x42 [BitVec.ofNat 8 a, cls]) ∧
   (∀ a cls why, framed (.stranger a cls why) 0x43
     [BitVec.ofNat 8 a, cls, match why with | .unknown => 0 | .cls => 1]) ∧
   (∀ a, framed (.restarted a) 0x44 [BitVec.ofNat 8 a]) ∧
   (∀ h dest result why, framed (.outcome h dest result why) 0x45
     [BitVec.ofNat 8 (h / 256), BitVec.ofNat 8 h, BitVec.ofNat 8 dest,
      (match result with | .delivered => 0 | .failed => 1 | .discarded => 2 | .cancelled => 3),
      (match why with
        | .none => 0 | .noAck => 1 | .stationBusy => 2 | .stationLost => 3 | .retired => 4 | .flushed => 5)]) ∧
   (∀ count, framed (.uplinkReady count) 0x46 [BitVec.ofNat 8 count]) ∧
   (∀ streak cycle, framed (.busFault streak cycle) 0x47 [BitVec.ofNat 8 streak, cycle])) ∧
  ∀ s : State,
    let starts := fun (source : TxSource) (frame : Frame) (t : State) =>
      arbitrate s = { t with ntq.tx := some { frame := frame, source := source } }
    (s.ntq.tx ≠ none ∨ held s = true → arbitrate s = s) ∧
    (s.ntq.tx = none → held s = false →
      (∀ c, s.ntq.startUp = some c → starts .startUp
        { kind := 0x7E, tag := 0x00,
          body := [match c with | .power => 0 | .pin => 1 | .full => 2 | .bus => 3 | .link => 4] }
        { s with ntq.startUp := none }) ∧
      (∀ r rest, s.ntq.startUp = none → s.ntq.replies = r :: rest → starts .reply r.frame s) ∧
      (s.ntq.startUp = none → s.ntq.replies = [] →
        (s.ntq.credits = 0 ∨ (s.ntq.notices = [] ∧ s.ntq.marker = none) → arbitrate s = s) ∧
        (∀ n rest, s.ntq.credits ≠ 0 → s.ntq.notices = n :: rest →
          starts .notice (noticeFrame n) { s with ntq.credits := s.ntq.credits - 1 }) ∧
        (∀ k, s.ntq.credits ≠ 0 → s.ntq.notices = [] → s.ntq.marker = some k →
          starts .overflow { kind := 0x48, tag := 0x00, body := [BitVec.ofNat 8 k] }
            { s with ntq.credits := s.ntq.credits - 1, ntq.marker := some 0 })))

/-- A frame has been sent whole. A reply leaves its queue and closes its request or frees its refusal place, and after a RESET
reply its reset is due; the head notice leaves; after an OVERFLOW frame a marker with nothing dropped meanwhile leaves, and
one that has counted again stays; in level mode ATTN is released with the last entry. A pulse that ends releases ATTN (R158,
R164, R177, R185, R187, R189, R191, R192; the mark on the reset in hand is the model's, log 9). -/
def Obligations.FramesSentLeaveTheirQueues : Prop :=
  ∀ s : State, held s = false →
    let released := fun (emptied : Prop) [Decidable emptied] =>
      if s.rex.config.attnMode = .level ∧ emptied then false else s.ntq.attn
    (∀ f, s.ntq.tx = some { frame := f, source := .startUp } →
      exec .frameSent s = .next (arbitrate { s with ntq.tx := none })) ∧
    (∀ f r rest, s.ntq.tx = some { frame := f, source := .reply } → s.ntq.replies = r :: rest →
      let t := countGlobal .repliesSent { s with ntq.tx := none, ntq.replies := rest }
      (r.place = .request → exec .frameSent s = .next (arbitrate { t with rex.openCount := s.rex.openCount - 1 })) ∧
      (r.place = .refusal → exec .frameSent s = .next (arbitrate { t with ntq.refusals := s.ntq.refusals - 1 })) ∧
      (r.place = .reset → exec .frameSent s = .next (arbitrate
        { t with rex := { s.rex with
            openCount := s.rex.openCount - 1,
            resetInHand := s.rex.resetInHand.map fun x => { x with replySent := true } } }))) ∧
    (∀ f n rest, s.ntq.tx = some { frame := f, source := .notice } → s.ntq.notices = n :: rest →
      exec .frameSent s = .next (arbitrate { countGlobal .noticesSent s with
        ntq := { s.ntq with tx := none, notices := rest,
                            attn := released (rest = [] ∧ s.ntq.marker = none) } })) ∧
    (∀ f k, s.ntq.tx = some { frame := f, source := .overflow } → s.ntq.notices = [] → s.ntq.marker = some k →
      exec .frameSent s = .next (arbitrate { countGlobal .overflowNoticesSent (countGlobal .noticesSent s) with
        ntq := { s.ntq with tx := none, marker := if k = 0 then none else some k, attn := released (k = 0) } })) ∧
    (∀ k, s.ntq.pulse = some k →
      exec .attnPulseExpiry s = .next (arbitrate { s with ntq.pulse := none, ntq.attn := false }))

/-! ### Resets -/

/-- Power-on and the release of RESETn bring every item to its power-on value with the link rate of the straps, whatever went
before, and send the start-up frame with cause POWER or PIN. RESETn low for 1 µs or more brings the same values, sends nothing,
and keeps the rate; a shorter low has no effect. FULL_RESET does as power-on, once its reply has been sent whole, with cause
FULL and the rate kept (R16, R17, R148, R159, R161, R180, R190). The values while RESETn is low are the model's reading, log 14;
power-on with RESETn low is its choice, log 19; and the character receiver after FULL_RESET is its reading, log 16. -/
def Obligations.WholeResetsGivePowerOnValues : Prop :=
  ∀ (rate1 rate0 : Bool) (s : State),
    let values := { State.reset with choices := s.choices, pending := s.pending }
    let straps : LinkRate := match rate1, rate0 with
      | false, false => .baud115200 | false, true => .baud230400 | true, false => .baud460800 | true, true => .baud921600
    let startUp := fun (cause : Byte) =>
      some ({ frame := { kind := 0x7E, tag := 0x00, body := [cause] }, source := .startUp } : TxFrame)
    exec (.powerOn rate1 rate0) s = .next { values with hlk.rate := straps, ntq.tx := startUp 0 } ∧
    exec (.pinReset rate1 rate0) s = .next { values with hlk.rate := straps, ntq.tx := startUp 1 } ∧
    (∀ nanoseconds, 1000 ≤ nanoseconds → exec (.resetnLow nanoseconds) s =
      .next { values with hlk.rate := s.hlk.rate, resetLow := true, ntq.tx := none }) ∧
    (∀ nanoseconds, nanoseconds < 1000 → exec (.resetnLow nanoseconds) s = .next s) ∧
    (s.resetLow = false → s.rex.resetInHand = some { scope := .full, replySent := true } →
      exec .fullReset s = .next { values with
        hlk.rate := s.hlk.rate, ntq.tx := startUp 2,
        hlk.chr := if s.hlk.chr = .inCharacter then .waitHigh else s.hlk.chr })

/-- A LINK reset empties the inbox, the replies, the notices, the marker and the credits, releases ATTN, puts the receiver in
HUNT, forgets the deferred records and starts the start-up frame with cause LINK. The settings, the bus cycle, the stations,
the messages and every counter are as they were (R19, R37, R159, R179, R190, R193; for a character in reception, log 16). -/
def Obligations.ALinkResetLeavesTheBusAlone : Prop :=
  ∀ s : State, s.resetLow = false → s.rex.resetInHand = some { scope := .link, replySent := true } →
    let forgotten := fun (d : Option Deferred) => d.map fun r => { r with forgotten := true }
    exec .linkReset s = .next
      { s with
        cye := { s.cye with start := forgotten s.cye.start, stop := forgotten s.cye.stop },
        sbk.commit := forgotten s.sbk.commit,
        hlk := { rate := s.hlk.rate, rx := .hunt, gap := .stopped,
                 chr := if s.hlk.chr = .inCharacter then .waitHigh else s.hlk.chr },
        rex := { inbox := [], openCount := 0, resetInHand := none, config := s.rex.config },
        ntq := { notices := [], marker := none, credits := 0, replies := [], refusals := 0, startUp := none,
                 tx := some { frame := { kind := 0x7E, tag := 0x00, body := [0x04] }, source := .startUp },
                 attn := false, pulse := none } }

/-- A BUS reset stops the engine, makes every station ABSENT with its sequences reset and nothing queued or open, empties the
inbox and the pool, withdraws a pending commit and idles the line; the banks, the settings, the stranger set, the notices, the
host link and every counter are as they were. The start-up frame with cause BUS goes out, and then the ABANDONED replies owed,
in any order between them (R18, R37, R61, R76, R86, R105, R128, R145, R178, R190, R193). -/
def Obligations.ABusResetStopsTheBusAlone : Prop :=
  ∀ s : State, s.resetLow = false → s.rex.resetInHand = some { scope := .bus, replySent := true } →
    s.ntq.tx = none → (s.cye.start = none ∨ s.cye.stop = none) →
    let engine := owedReply s.cye.start 0x85 [0x10] ++ owedReply s.cye.stop 0x86 [0x10]
    let commit := owedReply s.sbk.commit 0x89 [0x10]
    ∃ v : State, exec .busReset s = .next
        { v with ntq.startUp := none,
                 ntq.tx := some { frame := { kind := 0x7E, tag := 0x00, body := [0x03] }, source := .startUp } } ∧
      (v.ntq.replies = s.ntq.replies ++ engine ++ commit ∨ v.ntq.replies = s.ntq.replies ++ commit ++ engine) ∧
      { v with choices := s.choices, ntq := s.ntq } =
        { s with
          cye := { s.cye with state := .stopped, slot := 0, streak := 0, deadline := none, start := none, stop := none },
          sbk.commit := none,
          stt.records := s.stt.records.map fun r => r.map fun st =>
            { st with presence := .absent, good := 0, miss := 0, heard := false, downNext := 0, upExpected := 0,
                      lastAccepted := none, busyAnswer := false, queue := [], inFlight := none, context := none },
          adm := { result := .none, echo := 0 },
          mpl := { free := 48, down := 0, up := 0, handleCounter := s.mpl.handleCounter, messages := [] },
          dlv := { queue := [], inFlight := none, next := 0 },
          ulr.inbox := [],
          lif.line := .idle,
          rex.resetInHand := none } ∧
      { v.ntq with replies := s.ntq.replies, startUp := s.ntq.startUp } = s.ntq

/-! ### Invariants -/

/-- The state after reset has every invariant below; its start-up frame in progress is the model's reading, log 3. -/
def Obligations.ResetHasTheInvariants : Prop :=
  PoolInv State.reset ∧ QueueInv State.reset ∧ NoticeInv State.reset ∧ ArbiterInv State.reset ∧ AttnInv State.reset ∧
  EngineInv State.reset ∧ BankInv State.reset ∧ OpenInv State.reset ∧ StationInv State.reset ∧ StrangerInv State.reset

/-- Every step keeps the pool's count of 48 with its three bounds, and the queues, in-flight records and descriptors in order
(R77, R79, R80, R84, R85, R86, R96, R108). -/
def Obligations.StepsKeepThePoolAndTheQueues : Prop :=
  ∀ s t : State, PoolInv s → QueueInv s → step s = .next t → PoolInv t ∧ QueueInv t

/-- Every step keeps the bounds of the notice queue, the marker and the credits, the frame in progress at the head of its
queue, the transmitter busy while a frame is eligible, and ATTN as its mode says (R182, R184, R185, R186, R188, R189, R191,
R192). -/
def Obligations.StepsKeepTheOutboundSide : Prop :=
  ∀ s t : State, NoticeInv s → ArbiterInv s → AttnInv s → step s = .next t → NoticeInv t ∧ ArbiterInv t ∧ AttnInv t

/-- Every step keeps the settings in range, the deferred START and STOP with their engine states, the line with the engine,
the slot position in the cycle, and the active and any committed bank past every check (R1, R9, R11, R12, R15, R27, R28, R29,
R30, R34, R129, R171). -/
def Obligations.StepsKeepTheEngineAndTheBanks : Prop :=
  ∀ s t : State, EngineInv s → BankInv s → step s = .next t → EngineInv t ∧ BankInv t

/-- Every step keeps each open request accounted for: it waits in the inbox, holds a place in the reply queue, or is owed a
deferred reply; and the bounds of the inbox, the open requests and the refusal places (R15, R162, R163, R164, R177, R187). -/
def Obligations.StepsAccountForOpenRequests : Prop :=
  ∀ s t : State, EngineInv s → OpenInv s → step s = .next t → OpenInv t

/-- Every step keeps each record in order: its counts in range, ACQUIRING or PRESENT only in a run, a started message or an
open context only while PRESENT, the expected sequence one past the last accepted; and the stranger set ascending (R39, R46,
R55, R56, R69, R85, R102, R107, R117, R121). -/
def Obligations.StepsKeepTheStations : Prop :=
  ∀ s t : State, EngineInv s → QueueInv s → StationInv s → StrangerInv s → step s = .next t →
    StationInv t ∧ StrangerInv t

/-! ### Pins and ticks -/

/-- The pins by the state. BDE is asserted in SEND alone; BTX is at its idle level, high, but in CELLS, where a cell of value 1 is
low and then high and one of value 0 high and then low. In half bit times of the slot, LEAD lasts to 4, cell k begins at
4 + 2k, LAG lasts from 2(74 + 8p) to 2(75 + 8p), and from LEAD's end on each phase is the next one of the one before. TXD
carries the frame in progress, character after character: a low start bit, the data bits least significant first and a high
stop bit; it is high past the frame's end, without a frame and while RESETn is low (R130, R131, R133, R142, R147, R148, R161).
A tick takes SEND to its next phase, closes a receive part that has been reported, and does nothing else: log 2, log 13. -/
def Obligations.PinsFollowTheState : Prop :=
  (∀ s : State, bde s = true ↔ ∃ seg phase, s.lif.line = .send seg phase) ∧
  (∀ s : State, (∀ seg k h, s.lif.line ≠ .send seg (.cells k h)) → btx s = true) ∧
  (∀ (seg : Segment) (k : Nat) (h v : Bool) (s : State), s.lif.line = .send seg (.cells k h) →
    (segmentCells seg)[k]? = some v → btx s = if h then v else !v) ∧
  (∀ seg : Segment, (segmentCells seg).length = 72 + 8 * seg.payload.length) ∧
  (∀ p t : Nat,
    (t < 4 → sendPhaseAt p t = some .lead) ∧
    (∀ k < 72 + 8 * p, sendPhaseAt p (4 + 2 * k) = some (.cells k false) ∧
      sendPhaseAt p (4 + 2 * k + 1) = some (.cells k true)) ∧
    (2 * (74 + 8 * p) ≤ t → t < 2 * (75 + 8 * p) → sendPhaseAt p t = some .lag) ∧
    (2 * (75 + 8 * p) ≤ t → sendPhaseAt p t = none) ∧
    (∀ phase, 3 ≤ t → t + 1 < 2 * (75 + 8 * p) → sendPhaseAt p t = some phase →
      sendPhaseAt p (t + 1) = some (nextSendPhase (72 + 8 * p) phase))) ∧
  (∀ s : State,
    (held s = true → tick s = s) ∧
    (held s = false →
      (s.lif.line = .idle ∨ s.lif.line = .watch → tick s = s) ∧
      (∀ seg phase, s.lif.line = .send seg phase →
        tick s = { s with lif.line := .send seg (nextSendPhase (72 + 8 * seg.payload.length) phase) }) ∧
      (∀ slot phase, s.lif.line = .receive slot phase → partOpen phase = true → tick s = s) ∧
      (∀ slot r, s.lif.line = .receive slot (.settled r) → tick s = { s with lif.line := .idle }))) ∧
  (∀ (t : Nat) (s : State),
    (s.resetLow = true ∨ s.ntq.tx = none → txdAt s t = true) ∧
    (∀ f, s.resetLow = false → s.ntq.tx = some f →
      (∀ i b, (wireBytes f.frame)[i]? = some b →
        txdAt s (10 * i) = false ∧ (∀ j < 8, txdAt s (10 * i + 1 + j) = b.getLsbD j) ∧ txdAt s (10 * i + 9) = true) ∧
      (10 * (wireBytes f.frame).length ≤ t → txdAt s t = true)))

end Slice0
end

