-- ==== Sys2Proof/Laws/State.lean ====
section
/-! SUPPORT. What each named update of the state leaves as it is, one lemma per field. -/

namespace Sys2Proof.Machine

/-! ### countGlobal -/

@[simp] theorem countGlobal_cye (c : GlobalCounter) (s : State) : (countGlobal c s).cye = s.cye := rfl
@[simp] theorem countGlobal_sbk (c : GlobalCounter) (s : State) : (countGlobal c s).sbk = s.sbk := rfl
@[simp] theorem countGlobal_stt (c : GlobalCounter) (s : State) : (countGlobal c s).stt = s.stt := rfl
@[simp] theorem countGlobal_adm (c : GlobalCounter) (s : State) : (countGlobal c s).adm = s.adm := rfl
@[simp] theorem countGlobal_mpl (c : GlobalCounter) (s : State) : (countGlobal c s).mpl = s.mpl := rfl
@[simp] theorem countGlobal_dlv (c : GlobalCounter) (s : State) : (countGlobal c s).dlv = s.dlv := rfl
@[simp] theorem countGlobal_ulr (c : GlobalCounter) (s : State) : (countGlobal c s).ulr = s.ulr := rfl
@[simp] theorem countGlobal_lif (c : GlobalCounter) (s : State) : (countGlobal c s).lif = s.lif := rfl
@[simp] theorem countGlobal_hlk (c : GlobalCounter) (s : State) : (countGlobal c s).hlk = s.hlk := rfl
@[simp] theorem countGlobal_rex (c : GlobalCounter) (s : State) : (countGlobal c s).rex = s.rex := rfl
@[simp] theorem countGlobal_ntq (c : GlobalCounter) (s : State) : (countGlobal c s).ntq = s.ntq := rfl
@[simp] theorem countGlobal_resetLow (c : GlobalCounter) (s : State) : (countGlobal c s).resetLow = s.resetLow := rfl
@[simp] theorem countGlobal_choices (c : GlobalCounter) (s : State) : (countGlobal c s).choices = s.choices := rfl
@[simp] theorem countGlobal_pending (c : GlobalCounter) (s : State) : (countGlobal c s).pending = s.pending := rfl

/-! ### setStation -/

@[simp] theorem setStation_cye (a : Nat) (r : Option Station) (s : State) : (setStation a r s).cye = s.cye := by unfold setStation; split <;> rfl
@[simp] theorem setStation_sbk (a : Nat) (r : Option Station) (s : State) : (setStation a r s).sbk = s.sbk := by unfold setStation; split <;> rfl
@[simp] theorem setStation_adm (a : Nat) (r : Option Station) (s : State) : (setStation a r s).adm = s.adm := by unfold setStation; split <;> rfl
@[simp] theorem setStation_mpl (a : Nat) (r : Option Station) (s : State) : (setStation a r s).mpl = s.mpl := by unfold setStation; split <;> rfl
@[simp] theorem setStation_dlv (a : Nat) (r : Option Station) (s : State) : (setStation a r s).dlv = s.dlv := by unfold setStation; split <;> rfl
@[simp] theorem setStation_ulr (a : Nat) (r : Option Station) (s : State) : (setStation a r s).ulr = s.ulr := by unfold setStation; split <;> rfl
@[simp] theorem setStation_lif (a : Nat) (r : Option Station) (s : State) : (setStation a r s).lif = s.lif := by unfold setStation; split <;> rfl
@[simp] theorem setStation_hlk (a : Nat) (r : Option Station) (s : State) : (setStation a r s).hlk = s.hlk := by unfold setStation; split <;> rfl
@[simp] theorem setStation_rex (a : Nat) (r : Option Station) (s : State) : (setStation a r s).rex = s.rex := by unfold setStation; split <;> rfl
@[simp] theorem setStation_ntq (a : Nat) (r : Option Station) (s : State) : (setStation a r s).ntq = s.ntq := by unfold setStation; split <;> rfl
@[simp] theorem setStation_counters (a : Nat) (r : Option Station) (s : State) : (setStation a r s).counters = s.counters := by unfold setStation; split <;> rfl
@[simp] theorem setStation_resetLow (a : Nat) (r : Option Station) (s : State) : (setStation a r s).resetLow = s.resetLow := by unfold setStation; split <;> rfl
@[simp] theorem setStation_choices (a : Nat) (r : Option Station) (s : State) : (setStation a r s).choices = s.choices := by unfold setStation; split <;> rfl
@[simp] theorem setStation_pending (a : Nat) (r : Option Station) (s : State) : (setStation a r s).pending = s.pending := by unfold setStation; split <;> rfl

@[simp] theorem setStation_strangers (a : Nat) (r : Option Station) (s : State) :
    (setStation a r s).stt.strangers = s.stt.strangers := by unfold setStation; split <;> rfl

/-! ### onStation -/

@[simp] theorem onStation_cye (a : Nat) (f : Station → Station) (s : State) : (onStation a f s).cye = s.cye := by unfold onStation; split <;> simp
@[simp] theorem onStation_sbk (a : Nat) (f : Station → Station) (s : State) : (onStation a f s).sbk = s.sbk := by unfold onStation; split <;> simp
@[simp] theorem onStation_adm (a : Nat) (f : Station → Station) (s : State) : (onStation a f s).adm = s.adm := by unfold onStation; split <;> simp
@[simp] theorem onStation_mpl (a : Nat) (f : Station → Station) (s : State) : (onStation a f s).mpl = s.mpl := by unfold onStation; split <;> simp
@[simp] theorem onStation_dlv (a : Nat) (f : Station → Station) (s : State) : (onStation a f s).dlv = s.dlv := by unfold onStation; split <;> simp
@[simp] theorem onStation_ulr (a : Nat) (f : Station → Station) (s : State) : (onStation a f s).ulr = s.ulr := by unfold onStation; split <;> simp
@[simp] theorem onStation_lif (a : Nat) (f : Station → Station) (s : State) : (onStation a f s).lif = s.lif := by unfold onStation; split <;> simp
@[simp] theorem onStation_hlk (a : Nat) (f : Station → Station) (s : State) : (onStation a f s).hlk = s.hlk := by unfold onStation; split <;> simp
@[simp] theorem onStation_rex (a : Nat) (f : Station → Station) (s : State) : (onStation a f s).rex = s.rex := by unfold onStation; split <;> simp
@[simp] theorem onStation_ntq (a : Nat) (f : Station → Station) (s : State) : (onStation a f s).ntq = s.ntq := by unfold onStation; split <;> simp
@[simp] theorem onStation_counters (a : Nat) (f : Station → Station) (s : State) : (onStation a f s).counters = s.counters := by unfold onStation; split <;> simp
@[simp] theorem onStation_resetLow (a : Nat) (f : Station → Station) (s : State) : (onStation a f s).resetLow = s.resetLow := by unfold onStation; split <;> simp
@[simp] theorem onStation_choices (a : Nat) (f : Station → Station) (s : State) : (onStation a f s).choices = s.choices := by unfold onStation; split <;> simp
@[simp] theorem onStation_pending (a : Nat) (f : Station → Station) (s : State) : (onStation a f s).pending = s.pending := by unfold onStation; split <;> simp

@[simp] theorem onStation_strangers (a : Nat) (f : Station → Station) (s : State) :
    (onStation a f s).stt.strangers = s.stt.strangers := by unfold onStation; split <;> simp

/-! ### countStation -/

@[simp] theorem countStation_cye (a : Nat) (c : StationCounter) (s : State) : (countStation a c s).cye = s.cye := by simp [countStation]
@[simp] theorem countStation_sbk (a : Nat) (c : StationCounter) (s : State) : (countStation a c s).sbk = s.sbk := by simp [countStation]
@[simp] theorem countStation_adm (a : Nat) (c : StationCounter) (s : State) : (countStation a c s).adm = s.adm := by simp [countStation]
@[simp] theorem countStation_mpl (a : Nat) (c : StationCounter) (s : State) : (countStation a c s).mpl = s.mpl := by simp [countStation]
@[simp] theorem countStation_dlv (a : Nat) (c : StationCounter) (s : State) : (countStation a c s).dlv = s.dlv := by simp [countStation]
@[simp] theorem countStation_ulr (a : Nat) (c : StationCounter) (s : State) : (countStation a c s).ulr = s.ulr := by simp [countStation]
@[simp] theorem countStation_lif (a : Nat) (c : StationCounter) (s : State) : (countStation a c s).lif = s.lif := by simp [countStation]
@[simp] theorem countStation_hlk (a : Nat) (c : StationCounter) (s : State) : (countStation a c s).hlk = s.hlk := by simp [countStation]
@[simp] theorem countStation_rex (a : Nat) (c : StationCounter) (s : State) : (countStation a c s).rex = s.rex := by simp [countStation]
@[simp] theorem countStation_ntq (a : Nat) (c : StationCounter) (s : State) : (countStation a c s).ntq = s.ntq := by simp [countStation]
@[simp] theorem countStation_counters (a : Nat) (c : StationCounter) (s : State) : (countStation a c s).counters = s.counters := by simp [countStation]
@[simp] theorem countStation_resetLow (a : Nat) (c : StationCounter) (s : State) : (countStation a c s).resetLow = s.resetLow := by simp [countStation]
@[simp] theorem countStation_choices (a : Nat) (c : StationCounter) (s : State) : (countStation a c s).choices = s.choices := by simp [countStation]
@[simp] theorem countStation_pending (a : Nat) (c : StationCounter) (s : State) : (countStation a c s).pending = s.pending := by simp [countStation]

/-! ### onStations -/

@[simp] theorem onStations_cye (f : Station → Station) (s : State) : (onStations f s).cye = s.cye := rfl
@[simp] theorem onStations_sbk (f : Station → Station) (s : State) : (onStations f s).sbk = s.sbk := rfl
@[simp] theorem onStations_adm (f : Station → Station) (s : State) : (onStations f s).adm = s.adm := rfl
@[simp] theorem onStations_mpl (f : Station → Station) (s : State) : (onStations f s).mpl = s.mpl := rfl
@[simp] theorem onStations_dlv (f : Station → Station) (s : State) : (onStations f s).dlv = s.dlv := rfl
@[simp] theorem onStations_ulr (f : Station → Station) (s : State) : (onStations f s).ulr = s.ulr := rfl
@[simp] theorem onStations_lif (f : Station → Station) (s : State) : (onStations f s).lif = s.lif := rfl
@[simp] theorem onStations_hlk (f : Station → Station) (s : State) : (onStations f s).hlk = s.hlk := rfl
@[simp] theorem onStations_rex (f : Station → Station) (s : State) : (onStations f s).rex = s.rex := rfl
@[simp] theorem onStations_ntq (f : Station → Station) (s : State) : (onStations f s).ntq = s.ntq := rfl
@[simp] theorem onStations_counters (f : Station → Station) (s : State) : (onStations f s).counters = s.counters := rfl
@[simp] theorem onStations_resetLow (f : Station → Station) (s : State) : (onStations f s).resetLow = s.resetLow := rfl
@[simp] theorem onStations_choices (f : Station → Station) (s : State) : (onStations f s).choices = s.choices := rfl
@[simp] theorem onStations_pending (f : Station → Station) (s : State) : (onStations f s).pending = s.pending := rfl

/-! ### lendDown -/

@[simp] theorem lendDown_cye (s : State) : (lendDown s).cye = s.cye := rfl
@[simp] theorem lendDown_sbk (s : State) : (lendDown s).sbk = s.sbk := rfl
@[simp] theorem lendDown_stt (s : State) : (lendDown s).stt = s.stt := rfl
@[simp] theorem lendDown_adm (s : State) : (lendDown s).adm = s.adm := rfl
@[simp] theorem lendDown_dlv (s : State) : (lendDown s).dlv = s.dlv := rfl
@[simp] theorem lendDown_ulr (s : State) : (lendDown s).ulr = s.ulr := rfl
@[simp] theorem lendDown_lif (s : State) : (lendDown s).lif = s.lif := rfl
@[simp] theorem lendDown_hlk (s : State) : (lendDown s).hlk = s.hlk := rfl
@[simp] theorem lendDown_rex (s : State) : (lendDown s).rex = s.rex := rfl
@[simp] theorem lendDown_ntq (s : State) : (lendDown s).ntq = s.ntq := rfl
@[simp] theorem lendDown_counters (s : State) : (lendDown s).counters = s.counters := rfl
@[simp] theorem lendDown_resetLow (s : State) : (lendDown s).resetLow = s.resetLow := rfl
@[simp] theorem lendDown_choices (s : State) : (lendDown s).choices = s.choices := rfl
@[simp] theorem lendDown_pending (s : State) : (lendDown s).pending = s.pending := rfl

@[simp] theorem lendDown_messages (s : State) : (lendDown s).mpl.messages = s.mpl.messages := rfl

/-! ### returnDown -/

@[simp] theorem returnDown_cye (s : State) : (returnDown s).cye = s.cye := rfl
@[simp] theorem returnDown_sbk (s : State) : (returnDown s).sbk = s.sbk := rfl
@[simp] theorem returnDown_stt (s : State) : (returnDown s).stt = s.stt := rfl
@[simp] theorem returnDown_adm (s : State) : (returnDown s).adm = s.adm := rfl
@[simp] theorem returnDown_dlv (s : State) : (returnDown s).dlv = s.dlv := rfl
@[simp] theorem returnDown_ulr (s : State) : (returnDown s).ulr = s.ulr := rfl
@[simp] theorem returnDown_lif (s : State) : (returnDown s).lif = s.lif := rfl
@[simp] theorem returnDown_hlk (s : State) : (returnDown s).hlk = s.hlk := rfl
@[simp] theorem returnDown_rex (s : State) : (returnDown s).rex = s.rex := rfl
@[simp] theorem returnDown_ntq (s : State) : (returnDown s).ntq = s.ntq := rfl
@[simp] theorem returnDown_counters (s : State) : (returnDown s).counters = s.counters := rfl
@[simp] theorem returnDown_resetLow (s : State) : (returnDown s).resetLow = s.resetLow := rfl
@[simp] theorem returnDown_choices (s : State) : (returnDown s).choices = s.choices := rfl
@[simp] theorem returnDown_pending (s : State) : (returnDown s).pending = s.pending := rfl

@[simp] theorem returnDown_messages (s : State) : (returnDown s).mpl.messages = s.mpl.messages := rfl

/-! ### lendUp -/

@[simp] theorem lendUp_cye (s : State) : (lendUp s).cye = s.cye := rfl
@[simp] theorem lendUp_sbk (s : State) : (lendUp s).sbk = s.sbk := rfl
@[simp] theorem lendUp_stt (s : State) : (lendUp s).stt = s.stt := rfl
@[simp] theorem lendUp_adm (s : State) : (lendUp s).adm = s.adm := rfl
@[simp] theorem lendUp_dlv (s : State) : (lendUp s).dlv = s.dlv := rfl
@[simp] theorem lendUp_ulr (s : State) : (lendUp s).ulr = s.ulr := rfl
@[simp] theorem lendUp_lif (s : State) : (lendUp s).lif = s.lif := rfl
@[simp] theorem lendUp_hlk (s : State) : (lendUp s).hlk = s.hlk := rfl
@[simp] theorem lendUp_rex (s : State) : (lendUp s).rex = s.rex := rfl
@[simp] theorem lendUp_ntq (s : State) : (lendUp s).ntq = s.ntq := rfl
@[simp] theorem lendUp_counters (s : State) : (lendUp s).counters = s.counters := rfl
@[simp] theorem lendUp_resetLow (s : State) : (lendUp s).resetLow = s.resetLow := rfl
@[simp] theorem lendUp_choices (s : State) : (lendUp s).choices = s.choices := rfl
@[simp] theorem lendUp_pending (s : State) : (lendUp s).pending = s.pending := rfl

@[simp] theorem lendUp_messages (s : State) : (lendUp s).mpl.messages = s.mpl.messages := rfl

/-! ### returnUp -/

@[simp] theorem returnUp_cye (s : State) : (returnUp s).cye = s.cye := rfl
@[simp] theorem returnUp_sbk (s : State) : (returnUp s).sbk = s.sbk := rfl
@[simp] theorem returnUp_stt (s : State) : (returnUp s).stt = s.stt := rfl
@[simp] theorem returnUp_adm (s : State) : (returnUp s).adm = s.adm := rfl
@[simp] theorem returnUp_dlv (s : State) : (returnUp s).dlv = s.dlv := rfl
@[simp] theorem returnUp_ulr (s : State) : (returnUp s).ulr = s.ulr := rfl
@[simp] theorem returnUp_lif (s : State) : (returnUp s).lif = s.lif := rfl
@[simp] theorem returnUp_hlk (s : State) : (returnUp s).hlk = s.hlk := rfl
@[simp] theorem returnUp_rex (s : State) : (returnUp s).rex = s.rex := rfl
@[simp] theorem returnUp_ntq (s : State) : (returnUp s).ntq = s.ntq := rfl
@[simp] theorem returnUp_counters (s : State) : (returnUp s).counters = s.counters := rfl
@[simp] theorem returnUp_resetLow (s : State) : (returnUp s).resetLow = s.resetLow := rfl
@[simp] theorem returnUp_choices (s : State) : (returnUp s).choices = s.choices := rfl
@[simp] theorem returnUp_pending (s : State) : (returnUp s).pending = s.pending := rfl

@[simp] theorem returnUp_messages (s : State) : (returnUp s).mpl.messages = s.mpl.messages := rfl

/-! ### attnOnFirst -/

@[simp] theorem attnOnFirst_cye (s : State) : (attnOnFirst s).cye = s.cye := by unfold attnOnFirst; split <;> rfl
@[simp] theorem attnOnFirst_sbk (s : State) : (attnOnFirst s).sbk = s.sbk := by unfold attnOnFirst; split <;> rfl
@[simp] theorem attnOnFirst_stt (s : State) : (attnOnFirst s).stt = s.stt := by unfold attnOnFirst; split <;> rfl
@[simp] theorem attnOnFirst_adm (s : State) : (attnOnFirst s).adm = s.adm := by unfold attnOnFirst; split <;> rfl
@[simp] theorem attnOnFirst_mpl (s : State) : (attnOnFirst s).mpl = s.mpl := by unfold attnOnFirst; split <;> rfl
@[simp] theorem attnOnFirst_dlv (s : State) : (attnOnFirst s).dlv = s.dlv := by unfold attnOnFirst; split <;> rfl
@[simp] theorem attnOnFirst_ulr (s : State) : (attnOnFirst s).ulr = s.ulr := by unfold attnOnFirst; split <;> rfl
@[simp] theorem attnOnFirst_lif (s : State) : (attnOnFirst s).lif = s.lif := by unfold attnOnFirst; split <;> rfl
@[simp] theorem attnOnFirst_hlk (s : State) : (attnOnFirst s).hlk = s.hlk := by unfold attnOnFirst; split <;> rfl
@[simp] theorem attnOnFirst_rex (s : State) : (attnOnFirst s).rex = s.rex := by unfold attnOnFirst; split <;> rfl
@[simp] theorem attnOnFirst_counters (s : State) : (attnOnFirst s).counters = s.counters := by unfold attnOnFirst; split <;> rfl
@[simp] theorem attnOnFirst_resetLow (s : State) : (attnOnFirst s).resetLow = s.resetLow := by unfold attnOnFirst; split <;> rfl
@[simp] theorem attnOnFirst_choices (s : State) : (attnOnFirst s).choices = s.choices := by unfold attnOnFirst; split <;> rfl
@[simp] theorem attnOnFirst_pending (s : State) : (attnOnFirst s).pending = s.pending := by unfold attnOnFirst; split <;> rfl

/-! ### offer -/

@[simp] theorem offer_cye (n : Notice) (s : State) : (offer n s).cye = s.cye := by unfold offer; split <;> [(split <;> [(split <;> simp); rfl]); rfl]
@[simp] theorem offer_sbk (n : Notice) (s : State) : (offer n s).sbk = s.sbk := by unfold offer; split <;> [(split <;> [(split <;> simp); rfl]); rfl]
@[simp] theorem offer_stt (n : Notice) (s : State) : (offer n s).stt = s.stt := by unfold offer; split <;> [(split <;> [(split <;> simp); rfl]); rfl]
@[simp] theorem offer_adm (n : Notice) (s : State) : (offer n s).adm = s.adm := by unfold offer; split <;> [(split <;> [(split <;> simp); rfl]); rfl]
@[simp] theorem offer_mpl (n : Notice) (s : State) : (offer n s).mpl = s.mpl := by unfold offer; split <;> [(split <;> [(split <;> simp); rfl]); rfl]
@[simp] theorem offer_dlv (n : Notice) (s : State) : (offer n s).dlv = s.dlv := by unfold offer; split <;> [(split <;> [(split <;> simp); rfl]); rfl]
@[simp] theorem offer_ulr (n : Notice) (s : State) : (offer n s).ulr = s.ulr := by unfold offer; split <;> [(split <;> [(split <;> simp); rfl]); rfl]
@[simp] theorem offer_lif (n : Notice) (s : State) : (offer n s).lif = s.lif := by unfold offer; split <;> [(split <;> [(split <;> simp); rfl]); rfl]
@[simp] theorem offer_hlk (n : Notice) (s : State) : (offer n s).hlk = s.hlk := by unfold offer; split <;> [(split <;> [(split <;> simp); rfl]); rfl]
@[simp] theorem offer_rex (n : Notice) (s : State) : (offer n s).rex = s.rex := by unfold offer; split <;> [(split <;> [(split <;> simp); rfl]); rfl]
@[simp] theorem offer_resetLow (n : Notice) (s : State) : (offer n s).resetLow = s.resetLow := by unfold offer; split <;> [(split <;> [(split <;> simp); rfl]); rfl]
@[simp] theorem offer_choices (n : Notice) (s : State) : (offer n s).choices = s.choices := by unfold offer; split <;> [(split <;> [(split <;> simp); rfl]); rfl]
@[simp] theorem offer_pending (n : Notice) (s : State) : (offer n s).pending = s.pending := by unfold offer; split <;> [(split <;> [(split <;> simp); rfl]); rfl]

/-! ### joinReplies -/

@[simp] theorem joinReplies_cye (f : Frame) (p : Place) (s : State) : (joinReplies f p s).cye = s.cye := rfl
@[simp] theorem joinReplies_sbk (f : Frame) (p : Place) (s : State) : (joinReplies f p s).sbk = s.sbk := rfl
@[simp] theorem joinReplies_stt (f : Frame) (p : Place) (s : State) : (joinReplies f p s).stt = s.stt := rfl
@[simp] theorem joinReplies_adm (f : Frame) (p : Place) (s : State) : (joinReplies f p s).adm = s.adm := rfl
@[simp] theorem joinReplies_mpl (f : Frame) (p : Place) (s : State) : (joinReplies f p s).mpl = s.mpl := rfl
@[simp] theorem joinReplies_dlv (f : Frame) (p : Place) (s : State) : (joinReplies f p s).dlv = s.dlv := rfl
@[simp] theorem joinReplies_ulr (f : Frame) (p : Place) (s : State) : (joinReplies f p s).ulr = s.ulr := rfl
@[simp] theorem joinReplies_lif (f : Frame) (p : Place) (s : State) : (joinReplies f p s).lif = s.lif := rfl
@[simp] theorem joinReplies_hlk (f : Frame) (p : Place) (s : State) : (joinReplies f p s).hlk = s.hlk := rfl
@[simp] theorem joinReplies_rex (f : Frame) (p : Place) (s : State) : (joinReplies f p s).rex = s.rex := rfl
@[simp] theorem joinReplies_counters (f : Frame) (p : Place) (s : State) : (joinReplies f p s).counters = s.counters := rfl
@[simp] theorem joinReplies_resetLow (f : Frame) (p : Place) (s : State) : (joinReplies f p s).resetLow = s.resetLow := rfl
@[simp] theorem joinReplies_choices (f : Frame) (p : Place) (s : State) : (joinReplies f p s).choices = s.choices := rfl
@[simp] theorem joinReplies_pending (f : Frame) (p : Place) (s : State) : (joinReplies f p s).pending = s.pending := rfl

/-! ### reply -/

@[simp] theorem reply_cye (kind tag : Byte) (st : Status) (items : List Byte) (s : State) : (reply kind tag st items s).cye = s.cye := rfl
@[simp] theorem reply_sbk (kind tag : Byte) (st : Status) (items : List Byte) (s : State) : (reply kind tag st items s).sbk = s.sbk := rfl
@[simp] theorem reply_stt (kind tag : Byte) (st : Status) (items : List Byte) (s : State) : (reply kind tag st items s).stt = s.stt := rfl
@[simp] theorem reply_adm (kind tag : Byte) (st : Status) (items : List Byte) (s : State) : (reply kind tag st items s).adm = s.adm := rfl
@[simp] theorem reply_mpl (kind tag : Byte) (st : Status) (items : List Byte) (s : State) : (reply kind tag st items s).mpl = s.mpl := rfl
@[simp] theorem reply_dlv (kind tag : Byte) (st : Status) (items : List Byte) (s : State) : (reply kind tag st items s).dlv = s.dlv := rfl
@[simp] theorem reply_ulr (kind tag : Byte) (st : Status) (items : List Byte) (s : State) : (reply kind tag st items s).ulr = s.ulr := rfl
@[simp] theorem reply_lif (kind tag : Byte) (st : Status) (items : List Byte) (s : State) : (reply kind tag st items s).lif = s.lif := rfl
@[simp] theorem reply_hlk (kind tag : Byte) (st : Status) (items : List Byte) (s : State) : (reply kind tag st items s).hlk = s.hlk := rfl
@[simp] theorem reply_rex (kind tag : Byte) (st : Status) (items : List Byte) (s : State) : (reply kind tag st items s).rex = s.rex := rfl
@[simp] theorem reply_counters (kind tag : Byte) (st : Status) (items : List Byte) (s : State) : (reply kind tag st items s).counters = s.counters := rfl
@[simp] theorem reply_resetLow (kind tag : Byte) (st : Status) (items : List Byte) (s : State) : (reply kind tag st items s).resetLow = s.resetLow := rfl
@[simp] theorem reply_choices (kind tag : Byte) (st : Status) (items : List Byte) (s : State) : (reply kind tag st items s).choices = s.choices := rfl
@[simp] theorem reply_pending (kind tag : Byte) (st : Status) (items : List Byte) (s : State) : (reply kind tag st items s).pending = s.pending := rfl

/-! ### startFrame -/

@[simp] theorem startFrame_cye (f : Frame) (src : TxSource) (s : State) : (startFrame f src s).cye = s.cye := rfl
@[simp] theorem startFrame_sbk (f : Frame) (src : TxSource) (s : State) : (startFrame f src s).sbk = s.sbk := rfl
@[simp] theorem startFrame_stt (f : Frame) (src : TxSource) (s : State) : (startFrame f src s).stt = s.stt := rfl
@[simp] theorem startFrame_adm (f : Frame) (src : TxSource) (s : State) : (startFrame f src s).adm = s.adm := rfl
@[simp] theorem startFrame_mpl (f : Frame) (src : TxSource) (s : State) : (startFrame f src s).mpl = s.mpl := rfl
@[simp] theorem startFrame_dlv (f : Frame) (src : TxSource) (s : State) : (startFrame f src s).dlv = s.dlv := rfl
@[simp] theorem startFrame_ulr (f : Frame) (src : TxSource) (s : State) : (startFrame f src s).ulr = s.ulr := rfl
@[simp] theorem startFrame_lif (f : Frame) (src : TxSource) (s : State) : (startFrame f src s).lif = s.lif := rfl
@[simp] theorem startFrame_hlk (f : Frame) (src : TxSource) (s : State) : (startFrame f src s).hlk = s.hlk := rfl
@[simp] theorem startFrame_rex (f : Frame) (src : TxSource) (s : State) : (startFrame f src s).rex = s.rex := rfl
@[simp] theorem startFrame_counters (f : Frame) (src : TxSource) (s : State) : (startFrame f src s).counters = s.counters := rfl
@[simp] theorem startFrame_resetLow (f : Frame) (src : TxSource) (s : State) : (startFrame f src s).resetLow = s.resetLow := rfl
@[simp] theorem startFrame_choices (f : Frame) (src : TxSource) (s : State) : (startFrame f src s).choices = s.choices := rfl
@[simp] theorem startFrame_pending (f : Frame) (src : TxSource) (s : State) : (startFrame f src s).pending = s.pending := rfl

/-! ### arbitrate -/

@[simp] theorem arbitrate_cye (s : State) : (arbitrate s).cye = s.cye := by unfold arbitrate; (repeat' split) <;> rfl
@[simp] theorem arbitrate_sbk (s : State) : (arbitrate s).sbk = s.sbk := by unfold arbitrate; (repeat' split) <;> rfl
@[simp] theorem arbitrate_stt (s : State) : (arbitrate s).stt = s.stt := by unfold arbitrate; (repeat' split) <;> rfl
@[simp] theorem arbitrate_adm (s : State) : (arbitrate s).adm = s.adm := by unfold arbitrate; (repeat' split) <;> rfl
@[simp] theorem arbitrate_mpl (s : State) : (arbitrate s).mpl = s.mpl := by unfold arbitrate; (repeat' split) <;> rfl
@[simp] theorem arbitrate_dlv (s : State) : (arbitrate s).dlv = s.dlv := by unfold arbitrate; (repeat' split) <;> rfl
@[simp] theorem arbitrate_ulr (s : State) : (arbitrate s).ulr = s.ulr := by unfold arbitrate; (repeat' split) <;> rfl
@[simp] theorem arbitrate_lif (s : State) : (arbitrate s).lif = s.lif := by unfold arbitrate; (repeat' split) <;> rfl
@[simp] theorem arbitrate_hlk (s : State) : (arbitrate s).hlk = s.hlk := by unfold arbitrate; (repeat' split) <;> rfl
@[simp] theorem arbitrate_rex (s : State) : (arbitrate s).rex = s.rex := by unfold arbitrate; (repeat' split) <;> rfl
@[simp] theorem arbitrate_counters (s : State) : (arbitrate s).counters = s.counters := by unfold arbitrate; (repeat' split) <;> rfl
@[simp] theorem arbitrate_resetLow (s : State) : (arbitrate s).resetLow = s.resetLow := by unfold arbitrate; (repeat' split) <;> rfl
@[simp] theorem arbitrate_choices (s : State) : (arbitrate s).choices = s.choices := by unfold arbitrate; (repeat' split) <;> rfl
@[simp] theorem arbitrate_pending (s : State) : (arbitrate s).pending = s.pending := by unfold arbitrate; (repeat' split) <;> rfl

@[simp] theorem arbitrate_notices (s : State) : (arbitrate s).ntq.notices = s.ntq.notices := by unfold arbitrate; (repeat' split) <;> rfl
@[simp] theorem arbitrate_replies (s : State) : (arbitrate s).ntq.replies = s.ntq.replies := by unfold arbitrate; (repeat' split) <;> rfl
@[simp] theorem arbitrate_refusals (s : State) : (arbitrate s).ntq.refusals = s.ntq.refusals := by unfold arbitrate; (repeat' split) <;> rfl
@[simp] theorem arbitrate_attn (s : State) : (arbitrate s).ntq.attn = s.ntq.attn := by unfold arbitrate; (repeat' split) <;> rfl
@[simp] theorem arbitrate_pulse (s : State) : (arbitrate s).ntq.pulse = s.ntq.pulse := by unfold arbitrate; (repeat' split) <;> rfl

/-! ### joinEither -/

@[simp] theorem joinEither_cye (f g : Option Frame) (s : State) : (joinEither f g s).cye = s.cye := by unfold joinEither; (repeat' split) <;> rfl
@[simp] theorem joinEither_sbk (f g : Option Frame) (s : State) : (joinEither f g s).sbk = s.sbk := by unfold joinEither; (repeat' split) <;> rfl
@[simp] theorem joinEither_stt (f g : Option Frame) (s : State) : (joinEither f g s).stt = s.stt := by unfold joinEither; (repeat' split) <;> rfl
@[simp] theorem joinEither_adm (f g : Option Frame) (s : State) : (joinEither f g s).adm = s.adm := by unfold joinEither; (repeat' split) <;> rfl
@[simp] theorem joinEither_mpl (f g : Option Frame) (s : State) : (joinEither f g s).mpl = s.mpl := by unfold joinEither; (repeat' split) <;> rfl
@[simp] theorem joinEither_dlv (f g : Option Frame) (s : State) : (joinEither f g s).dlv = s.dlv := by unfold joinEither; (repeat' split) <;> rfl
@[simp] theorem joinEither_ulr (f g : Option Frame) (s : State) : (joinEither f g s).ulr = s.ulr := by unfold joinEither; (repeat' split) <;> rfl
@[simp] theorem joinEither_lif (f g : Option Frame) (s : State) : (joinEither f g s).lif = s.lif := by unfold joinEither; (repeat' split) <;> rfl
@[simp] theorem joinEither_hlk (f g : Option Frame) (s : State) : (joinEither f g s).hlk = s.hlk := by unfold joinEither; (repeat' split) <;> rfl
@[simp] theorem joinEither_rex (f g : Option Frame) (s : State) : (joinEither f g s).rex = s.rex := by unfold joinEither; (repeat' split) <;> rfl
@[simp] theorem joinEither_counters (f g : Option Frame) (s : State) : (joinEither f g s).counters = s.counters := by unfold joinEither; (repeat' split) <;> rfl
@[simp] theorem joinEither_resetLow (f g : Option Frame) (s : State) : (joinEither f g s).resetLow = s.resetLow := by unfold joinEither; (repeat' split) <;> rfl
@[simp] theorem joinEither_pending (f g : Option Frame) (s : State) : (joinEither f g s).pending = s.pending := by unfold joinEither; (repeat' split) <;> rfl

/-! ### discardContext -/

@[simp] theorem discardContext_cye (a : Nat) (s : State) : (discardContext a s).cye = s.cye := by unfold discardContext; (repeat' split) <;> simp
@[simp] theorem discardContext_sbk (a : Nat) (s : State) : (discardContext a s).sbk = s.sbk := by unfold discardContext; (repeat' split) <;> simp
@[simp] theorem discardContext_adm (a : Nat) (s : State) : (discardContext a s).adm = s.adm := by unfold discardContext; (repeat' split) <;> simp
@[simp] theorem discardContext_dlv (a : Nat) (s : State) : (discardContext a s).dlv = s.dlv := by unfold discardContext; (repeat' split) <;> simp
@[simp] theorem discardContext_ulr (a : Nat) (s : State) : (discardContext a s).ulr = s.ulr := by unfold discardContext; (repeat' split) <;> simp
@[simp] theorem discardContext_lif (a : Nat) (s : State) : (discardContext a s).lif = s.lif := by unfold discardContext; (repeat' split) <;> simp
@[simp] theorem discardContext_hlk (a : Nat) (s : State) : (discardContext a s).hlk = s.hlk := by unfold discardContext; (repeat' split) <;> simp
@[simp] theorem discardContext_rex (a : Nat) (s : State) : (discardContext a s).rex = s.rex := by unfold discardContext; (repeat' split) <;> simp
@[simp] theorem discardContext_ntq (a : Nat) (s : State) : (discardContext a s).ntq = s.ntq := by unfold discardContext; (repeat' split) <;> simp
@[simp] theorem discardContext_counters (a : Nat) (s : State) : (discardContext a s).counters = s.counters := by unfold discardContext; (repeat' split) <;> simp
@[simp] theorem discardContext_resetLow (a : Nat) (s : State) : (discardContext a s).resetLow = s.resetLow := by unfold discardContext; (repeat' split) <;> simp
@[simp] theorem discardContext_choices (a : Nat) (s : State) : (discardContext a s).choices = s.choices := by unfold discardContext; (repeat' split) <;> simp
@[simp] theorem discardContext_pending (a : Nat) (s : State) : (discardContext a s).pending = s.pending := by unfold discardContext; (repeat' split) <;> simp

/-! ### setQueue -/

@[simp] theorem setQueue_cye (d : Nat) (q : List Nat) (s : State) : (setQueue d q s).cye = s.cye := by unfold setQueue; split <;> simp
@[simp] theorem setQueue_sbk (d : Nat) (q : List Nat) (s : State) : (setQueue d q s).sbk = s.sbk := by unfold setQueue; split <;> simp
@[simp] theorem setQueue_adm (d : Nat) (q : List Nat) (s : State) : (setQueue d q s).adm = s.adm := by unfold setQueue; split <;> simp
@[simp] theorem setQueue_ulr (d : Nat) (q : List Nat) (s : State) : (setQueue d q s).ulr = s.ulr := by unfold setQueue; split <;> simp
@[simp] theorem setQueue_lif (d : Nat) (q : List Nat) (s : State) : (setQueue d q s).lif = s.lif := by unfold setQueue; split <;> simp
@[simp] theorem setQueue_hlk (d : Nat) (q : List Nat) (s : State) : (setQueue d q s).hlk = s.hlk := by unfold setQueue; split <;> simp
@[simp] theorem setQueue_rex (d : Nat) (q : List Nat) (s : State) : (setQueue d q s).rex = s.rex := by unfold setQueue; split <;> simp
@[simp] theorem setQueue_ntq (d : Nat) (q : List Nat) (s : State) : (setQueue d q s).ntq = s.ntq := by unfold setQueue; split <;> simp
@[simp] theorem setQueue_counters (d : Nat) (q : List Nat) (s : State) : (setQueue d q s).counters = s.counters := by unfold setQueue; split <;> simp
@[simp] theorem setQueue_resetLow (d : Nat) (q : List Nat) (s : State) : (setQueue d q s).resetLow = s.resetLow := by unfold setQueue; split <;> simp
@[simp] theorem setQueue_choices (d : Nat) (q : List Nat) (s : State) : (setQueue d q s).choices = s.choices := by unfold setQueue; split <;> simp
@[simp] theorem setQueue_pending (d : Nat) (q : List Nat) (s : State) : (setQueue d q s).pending = s.pending := by unfold setQueue; split <;> simp

/-! ### countStationResult -/

@[simp] theorem countStationResult_cye (d : Nat) (r : Result) (s : State) : (countStationResult d r s).cye = s.cye := by cases r <;> simp [countStationResult]
@[simp] theorem countStationResult_sbk (d : Nat) (r : Result) (s : State) : (countStationResult d r s).sbk = s.sbk := by cases r <;> simp [countStationResult]
@[simp] theorem countStationResult_adm (d : Nat) (r : Result) (s : State) : (countStationResult d r s).adm = s.adm := by cases r <;> simp [countStationResult]
@[simp] theorem countStationResult_mpl (d : Nat) (r : Result) (s : State) : (countStationResult d r s).mpl = s.mpl := by cases r <;> simp [countStationResult]
@[simp] theorem countStationResult_dlv (d : Nat) (r : Result) (s : State) : (countStationResult d r s).dlv = s.dlv := by cases r <;> simp [countStationResult]
@[simp] theorem countStationResult_ulr (d : Nat) (r : Result) (s : State) : (countStationResult d r s).ulr = s.ulr := by cases r <;> simp [countStationResult]
@[simp] theorem countStationResult_lif (d : Nat) (r : Result) (s : State) : (countStationResult d r s).lif = s.lif := by cases r <;> simp [countStationResult]
@[simp] theorem countStationResult_hlk (d : Nat) (r : Result) (s : State) : (countStationResult d r s).hlk = s.hlk := by cases r <;> simp [countStationResult]
@[simp] theorem countStationResult_rex (d : Nat) (r : Result) (s : State) : (countStationResult d r s).rex = s.rex := by cases r <;> simp [countStationResult]
@[simp] theorem countStationResult_ntq (d : Nat) (r : Result) (s : State) : (countStationResult d r s).ntq = s.ntq := by cases r <;> simp [countStationResult]
@[simp] theorem countStationResult_counters (d : Nat) (r : Result) (s : State) : (countStationResult d r s).counters = s.counters := by cases r <;> simp [countStationResult]
@[simp] theorem countStationResult_resetLow (d : Nat) (r : Result) (s : State) : (countStationResult d r s).resetLow = s.resetLow := by cases r <;> simp [countStationResult]
@[simp] theorem countStationResult_choices (d : Nat) (r : Result) (s : State) : (countStationResult d r s).choices = s.choices := by cases r <;> simp [countStationResult]
@[simp] theorem countStationResult_pending (d : Nat) (r : Result) (s : State) : (countStationResult d r s).pending = s.pending := by cases r <;> simp [countStationResult]

/-! ### endMessage -/

@[simp] theorem endMessage_cye (h : Nat) (r : Result) (w : Reason) (s : State) : (endMessage h r w s).cye = s.cye := by unfold endMessage; split <;> simp
@[simp] theorem endMessage_sbk (h : Nat) (r : Result) (w : Reason) (s : State) : (endMessage h r w s).sbk = s.sbk := by unfold endMessage; split <;> simp
@[simp] theorem endMessage_adm (h : Nat) (r : Result) (w : Reason) (s : State) : (endMessage h r w s).adm = s.adm := by unfold endMessage; split <;> simp
@[simp] theorem endMessage_ulr (h : Nat) (r : Result) (w : Reason) (s : State) : (endMessage h r w s).ulr = s.ulr := by unfold endMessage; split <;> simp
@[simp] theorem endMessage_lif (h : Nat) (r : Result) (w : Reason) (s : State) : (endMessage h r w s).lif = s.lif := by unfold endMessage; split <;> simp
@[simp] theorem endMessage_hlk (h : Nat) (r : Result) (w : Reason) (s : State) : (endMessage h r w s).hlk = s.hlk := by unfold endMessage; split <;> simp
@[simp] theorem endMessage_rex (h : Nat) (r : Result) (w : Reason) (s : State) : (endMessage h r w s).rex = s.rex := by unfold endMessage; split <;> simp
@[simp] theorem endMessage_resetLow (h : Nat) (r : Result) (w : Reason) (s : State) : (endMessage h r w s).resetLow = s.resetLow := by unfold endMessage; split <;> simp
@[simp] theorem endMessage_choices (h : Nat) (r : Result) (w : Reason) (s : State) : (endMessage h r w s).choices = s.choices := by unfold endMessage; split <;> simp
@[simp] theorem endMessage_pending (h : Nat) (r : Result) (w : Reason) (s : State) : (endMessage h r w s).pending = s.pending := by unfold endMessage; split <;> simp

/-! ### Counters of a record -/

@[simp] theorem countIn_cls (c : StationCounter) (st : Station) : (countIn c st).cls = st.cls := rfl
@[simp] theorem countIn_mode (c : StationCounter) (st : Station) : (countIn c st).mode = st.mode := rfl
@[simp] theorem countIn_hold (c : StationCounter) (st : Station) : (countIn c st).hold = st.hold := rfl
@[simp] theorem countIn_presence (c : StationCounter) (st : Station) : (countIn c st).presence = st.presence := rfl
@[simp] theorem countIn_good (c : StationCounter) (st : Station) : (countIn c st).good = st.good := rfl
@[simp] theorem countIn_miss (c : StationCounter) (st : Station) : (countIn c st).miss = st.miss := rfl
@[simp] theorem countIn_downNext (c : StationCounter) (st : Station) : (countIn c st).downNext = st.downNext := rfl
@[simp] theorem countIn_upExpected (c : StationCounter) (st : Station) : (countIn c st).upExpected = st.upExpected := rfl
@[simp] theorem countIn_lastAccepted (c : StationCounter) (st : Station) : (countIn c st).lastAccepted = st.lastAccepted := rfl
@[simp] theorem countIn_queue (c : StationCounter) (st : Station) : (countIn c st).queue = st.queue := rfl
@[simp] theorem countIn_inFlight (c : StationCounter) (st : Station) : (countIn c st).inFlight = st.inFlight := rfl
@[simp] theorem countIn_context (c : StationCounter) (st : Station) : (countIn c st).context = st.context := rfl
@[simp] theorem countIn_heard (c : StationCounter) (st : Station) : (countIn c st).heard = st.heard := rfl
@[simp] theorem countIn_busyAnswer (c : StationCounter) (st : Station) : (countIn c st).busyAnswer = st.busyAnswer := rfl

end Sys2Proof.Machine
end

