-- ==== Sys2Proof/Laws/Ops.lean ====
section
/-! SUPPORT. What each shared operation can do, said once: taking a command or a request, reading and writing records,
counters, the arbiter's choice, and an offered notice. -/

namespace Sys2Proof.Machine

/-! ### Taking a command or a request -/

theorem perform_next (change : Option State) (s : State) :
    perform change s = .next s ∨ held s = false ∧ ∃ t, change = some t ∧ perform change s = .next (arbitrate t) := by
  unfold perform
  split
  · exact .inl rfl
  · rename_i h
    cases change with
    | none => exact .inl rfl
    | some t => exact .inr ⟨by simpa using h, t, rfl, rfl⟩

@[simp] theorem perform_some {t s : State} (h : held s = false) : perform (some t) s = .next (arbitrate t) := by
  simp [perform, h]

@[simp] theorem perform_none (s : State) : perform none s = .next s := by unfold perform; split <;> rfl

theorem perform_held {change : Option State} {s : State} (h : held s = true) : perform change s = .next s := by
  simp [perform, h]

theorem CanTake.held {r : Request} {rest : List Request} {s : State} (h : CanTake r rest s) : held s = false := by
  obtain ⟨h1, h2, -⟩ := h
  simp [Machine.held, resetDue, h1, h2]

/-- The oldest request is taken: it leaves the inbox, and its owner or the length check answers it (R165). -/
theorem request_canTake {kind tag : Byte} {body : List Byte} {rest : List Request} {s : State} (owner : State → State)
    (h : CanTake ⟨kind, tag, body⟩ rest s) :
    request kind tag body owner s = .next (arbitrate
      (if lengthSuits kind body then owner { s with rex.inbox := rest }
       else reply kind tag .badLength [] { s with rex.inbox := rest })) := by
  have hh := h.held
  obtain ⟨-, h2, h3⟩ := h
  simp [request, perform, hh, takeRequest, h2, h3]

/-- A request command that cannot be taken leaves the state as it is (log 1, log 10). -/
theorem request_cannot {kind tag : Byte} {body : List Byte} {s : State} (owner : State → State)
    (h : ∀ rest, ¬ CanTake ⟨kind, tag, body⟩ rest s) : request kind tag body owner s = .next s := by
  unfold request
  rcases perform_next (takeRequest kind tag body owner s) s with h1 | ⟨hh, t, ht, -⟩
  · exact h1
  · exfalso
    unfold takeRequest at ht
    split at ht
    · rename_i r rest hr
      split at ht
      · rename_i hc
        refine h rest ⟨?_, hc.1, ?_⟩
        · simp [held] at hh; exact hh.1
        · rw [hr, hc.2]
      · cases ht
    · cases ht

/-- A reply that joins at once, in the terms of the claims. -/
theorem reply_eq_answered (kind tag : Byte) (st : Status) (items : List Byte) (rest : List Request) (s : State) :
    reply kind tag st items { s with rex.inbox := rest } =
      answered rest (replyKind kind) tag (statusCode st :: items) s := rfl

/-! ### Records -/

theorem station_congr {a : Nat} {s t : State} (h : t.stt.records = s.stt.records) : station a t = station a s := by
  simp [station, h]

theorem station_isSome_range {a : Nat} {s : State} {st : Station} (h : station a s = some st) : 1 ≤ a ∧ a ≤ 30 := by
  unfold station stationAddress at h
  split at h
  · rename_i hc; simpa using hc
  · cases h

theorem station_range {a : Nat} {s : State} (h : ¬(1 ≤ a ∧ a ≤ 30)) : station a s = none := by
  unfold station stationAddress; simp [h]

theorem station_setStation_same {a : Nat} {r : Option Station} {s : State} (h : 1 ≤ a ∧ a ≤ 30) :
    station a (setStation a r s) = r := by
  have h' : a - 1 < 30 := by omega
  simp [station, setStation, stationAddress, h, h']

theorem station_setStation_other {a b : Nat} {r : Option Station} {s : State} (h : b ≠ a) :
    station b (setStation a r s) = station b s := by
  unfold station setStation stationAddress
  by_cases ha : 1 ≤ a ∧ a ≤ 30 <;> by_cases hb : 1 ≤ b ∧ b ≤ 30 <;> simp [ha, hb]
  have : ¬ a - 1 = b - 1 := by omega
  simp [this]

theorem setStation_setStation (a : Nat) (r q : Option Station) (s : State) :
    setStation a r (setStation a q s) = setStation a r s := by
  unfold setStation
  by_cases h : stationAddress a = true <;> simp [h]

theorem onStation_some {a : Nat} {f : Station → Station} {s : State} {st : Station} (h : station a s = some st) :
    onStation a f s = setStation a (some (f st)) s := by simp [onStation, h]

theorem onStation_none {a : Nat} {f : Station → Station} {s : State} (h : station a s = none) :
    onStation a f s = s := by simp [onStation, h]

theorem station_onStation_same (a : Nat) (f : Station → Station) (s : State) :
    station a (onStation a f s) = (station a s).map f := by
  cases h : station a s with
  | none => simp [onStation_none h, h]
  | some st => simp [onStation_some h, station_setStation_same (station_isSome_range h)]

theorem station_onStation_other {a b : Nat} (f : Station → Station) (s : State) (h : b ≠ a) :
    station b (onStation a f s) = station b s := by
  unfold onStation; split
  · exact station_setStation_other h
  · rfl

theorem station_onStations (a : Nat) (f : Station → Station) (s : State) :
    station a (onStations f s) = (station a s).map f := by
  unfold station onStations stationAddress
  by_cases h : 1 ≤ a ∧ a ≤ 30 <;> simp [h]
  have h' : a - 1 < 30 := by omega
  simp [h']

/-! ### Counters -/

/-- Two counts commute. -/
theorem countGlobal_comm (c d : GlobalCounter) (s : State) :
    countGlobal c (countGlobal d s) = countGlobal d (countGlobal c s) := by
  by_cases h : globalIndex c = globalIndex d
  · unfold countGlobal; simp [h]
  · have h' : (globalIndex c).val ≠ (globalIndex d).val := fun e => h (Fin.ext e)
    simp only [countGlobal]
    congr 1
    apply Vector.ext
    intro i hi
    simp only [Vector.getElem_set, Fin.getElem_fin]
    by_cases h1 : (globalIndex c).val = i <;> by_cases h2 : (globalIndex d).val = i <;> simp_all

/-! ### The line -/

/-- A part heard to its closing is settled (R142). -/
theorem hear_closing (edges : List Edge) : hear edges closing (.wait []) = .settled (receivePart edges) := by
  simp [hear, receivePart, closePart]

/-- A report command either cannot happen, or keeps an open part open, or settles it and hands the class on (R142). -/
theorem takeReport_cases (slot : RxSlot) (edges : List Edge) (upTo : Nat) (judge : RxClass → State → State) (s : State) :
    takeReport slot edges upTo judge s = none ∨
    ∃ phase, s.lif.line = .receive slot phase ∧ partOpen phase = true ∧
      ((∃ r, hear edges upTo phase = .settled r ∧
          takeReport slot edges upTo judge s = some (judge r.cls (settle slot r s))) ∨
        (partOpen (hear edges upTo phase) = true ∧
          takeReport slot edges upTo judge s = some { s with lif.line := .receive slot (hear edges upTo phase) })) := by
  unfold takeReport
  split
  · rename_i which phase hl
    split
    · rename_i hc
      obtain ⟨rfl, ho⟩ := hc
      refine .inr ⟨phase, hl, ho, ?_⟩
      split
      · rename_i r hr; exact .inl ⟨r, hr, rfl⟩
      · rename_i hn
        refine .inr ⟨?_, rfl⟩
        cases hh : hear edges upTo phase with
        | settled r => exact absurd hh (hn r)
        | wait _ | decode _ _ | late _ _ => rfl
    · exact .inl rfl
  all_goals exact .inl rfl

/-- A tick changes the line state alone (log 2). -/
theorem tick_eq (s : State) : tick s = { s with lif := (tick s).lif } := by
  unfold tick; split <;> rfl

/-! ### The arbiter -/

/-- The arbiter starts a frame only on an idle transmitter that is neither held low nor about to be reset (R188). -/
theorem arbitrate_cases (s : State) :
    arbitrate s = s ∨ (s.ntq.tx = none ∧ held s = false ∧ (arbitrate s).ntq.tx.isSome) := by
  unfold arbitrate
  split
  · exact .inl rfl
  · rename_i h
    simp only [Bool.or_eq_true, not_or, Bool.not_eq_true] at h
    obtain ⟨⟨h1, h2⟩, h3⟩ := h
    have hn : s.ntq.tx = none := by simpa using h1
    have hh : held s = false := by simp [held, h2, h3]
    (repeat' split) <;> first
      | exact .inl rfl
      | exact .inr ⟨hn, hh, rfl⟩

/-- A second choice at one instant starts nothing more. -/
theorem arbitrate_busy {s : State} (h : s.ntq.tx.isSome) : arbitrate s = s := by simp [arbitrate, h]

end Sys2Proof.Machine
end

