-- ==== Sys2Proof/Laws/Line.lean ====
section
/-! SUPPORT. The receive part, said once: bits and the fields they spell, spans and cells, the level changes a run of cells
makes, and what is heard of it from the first level change to the class (R130 to R142, R196). -/

namespace Sys2Proof.Machine

/-! ### Bits, fields and segments -/

@[simp] theorem length_bitsOf {w : Nat} (x : BitVec w) : (bitsOf x).length = w := by simp [bitsOf]

theorem drop_bitsOf {w n : Nat} (x : BitVec w) (h : w ≤ n) : (bitsOf x).drop n = [] := by simp [h]

theorem take_bitsOf {w n : Nat} (x : BitVec w) (h : w ≤ n) : (bitsOf x).take n = bitsOf x := by
  simp [List.take_of_length_le, h]

/-- The number a run of bits spells. -/
theorem foldl_bits (bits : List Bool) (a : Nat) :
    bits.foldl (fun n b => 2 * n + b.toNat) a = a * 2 ^ bits.length + bits.foldl (fun n b => 2 * n + b.toNat) 0 := by
  induction bits generalizing a with
  | nil => simp
  | cons b bs ih =>
    rw [List.foldl_cons, ih, List.foldl_cons, ih (2 * 0 + b.toNat), List.length_cons, Nat.pow_succ,
      show (2 * a + b.toNat) * 2 ^ bs.length = a * (2 ^ bs.length * 2) + b.toNat * 2 ^ bs.length by ring]
    ring

theorem foldl_bits_lt (bits : List Bool) : bits.foldl (fun n b => 2 * n + b.toNat) 0 < 2 ^ bits.length := by
  induction bits with
  | nil => simp
  | cons b bs ih =>
    rw [List.foldl_cons, foldl_bits, List.length_cons, Nat.pow_succ]
    cases b <;> simp <;> omega

theorem testBit_foldl_bits (bits : List Bool) {i : Nat} (hi : i < bits.length) :
    (bits.foldl (fun n (b : Bool) => 2 * n + b.toNat) 0).testBit (bits.length - 1 - i) = bits[i] := by
  induction bits generalizing i with
  | nil => simp at hi
  | cons b bs ih =>
    rw [List.foldl_cons, foldl_bits, Nat.mul_comm, Nat.testBit_two_pow_mul_add _ (foldl_bits_lt bs)]
    cases i with
    | zero => cases b <;> simp
    | succ i =>
      have hi' : i < bs.length := by simpa using hi
      have : bs.length + 1 - 1 - (i + 1) = bs.length - 1 - i := by omega
      simp only [List.length_cons, this, if_pos (show bs.length - 1 - i < bs.length by omega), ih hi']
      simp

/-- The bits of the field that a run of bits spells are that run. -/
theorem bitsOf_fieldOf {w : Nat} {bits : List Bool} (h : bits.length = w) : bitsOf (fieldOf w bits) = bits := by
  subst h
  apply List.ext_getElem (by simp)
  intro i h1 h2
  have h3 : bits.length - 1 - i < bits.length := by omega
  simp only [bitsOf, fieldOf, List.getElem_map, List.getElem_range, BitVec.getMsbD, BitVec.getLsbD_ofNat,
    testBit_foldl_bits bits h2, h2, h3, decide_true, Bool.true_and]

theorem bitsOf_inj {w : Nat} {x y : BitVec w} (h : bitsOf x = bitsOf y) : x = y := by
  apply BitVec.eq_of_getMsbD_eq
  intro i hi
  have := congrArg (fun l => l[i]?) h
  simpa [bitsOf, hi] using this

/-- The field that the bits of a word spell is that word. -/
@[simp] theorem fieldOf_bitsOf {w : Nat} (x : BitVec w) : fieldOf w (bitsOf x) = x :=
  bitsOf_inj (bitsOf_fieldOf (length_bitsOf x))

@[simp] theorem bytesOf_bitsOfBytes (bytes : List Byte) (rest : List Bool) :
    bytesOf bytes.length (bitsOfBytes bytes ++ rest) = bytes := by
  induction bytes with
  | nil => rfl
  | cons b bs ih =>
    simp only [bitsOfBytes] at ih
    simp [bytesOf, bitsOfBytes, ih]

theorem bitsOfBytes_bytesOf {n : Nat} {bits : List Bool} (h : bits.length = 8 * n) :
    bitsOfBytes (bytesOf n bits) = bits := by
  induction n generalizing bits with
  | zero => simp at h; simp [h, bytesOf, bitsOfBytes]
  | succ n ih =>
    have h1 : (bits.take 8).length = 8 := by simp; omega
    have h2 := ih (bits := bits.drop 8) (by simp; omega)
    simp only [bitsOfBytes] at h2
    simp [bytesOf, bitsOfBytes, bitsOf_fieldOf h1, h2]

theorem length_bytesOf {n : Nat} {bits : List Bool} : (bytesOf n bits).length = n := by
  induction n generalizing bits with
  | zero => rfl
  | succ n ih => simp [bytesOf, ih]

theorem length_bitsOfBytes (bytes : List Byte) : (bitsOfBytes bytes).length = 8 * bytes.length := by
  induction bytes with
  | nil => rfl
  | cons b bs ih => simp only [bitsOfBytes] at ih; simp [bitsOfBytes, ih]; omega

@[simp] theorem length_headerBits (s : Segment) : (headerBits s).length = 32 := by simp [headerBits]

@[simp] theorem segKindOf_code (k : SegKind) : segKindOf (segKindCode k) = some k := by cases k <;> rfl

/-- Reading a segment's own header and payload gives the segment (R140, R196). -/
theorem segmentOf_coveredBits {s : Segment} (h : s.payload.length ≤ 8) : segmentOf (coveredBits s) = some s := by
  obtain ⟨x, hx⟩ : ∃ x : BitVec 4, x = BitVec.ofNat 4 s.payload.length := ⟨_, rfl⟩
  have hp : x.toNat = s.payload.length := by subst hx; simp; omega
  have e : coveredBits s = bitsOf (segKindCode s.kind) ++ (bitsOf s.address ++ (bitsOf s.seq ++
      ([s.first, s.last, s.ackValid, s.busy, false] ++
      (bitsOf s.ackSeq ++ (bitsOf x ++ ([false] ++ (bitsOf s.echo ++ bitsOfBytes s.payload))))))) := by
    simp [coveredBits, headerBits, hx]
  have p0 : (coveredBits s).take 3 = bitsOf (segKindCode s.kind) := by simp [e]
  have p1 : ((coveredBits s).drop 3).take 5 = bitsOf s.address := by simp [e]
  have p2 : ((coveredBits s).drop 8).take 3 = bitsOf s.seq := by simp [e, List.drop_append, drop_bitsOf]
  have p3 : (coveredBits s).drop 11 = [s.first, s.last, s.ackValid, s.busy, false] ++ (bitsOf s.ackSeq ++ (bitsOf x ++
      ([false] ++ (bitsOf s.echo ++ bitsOfBytes s.payload)))) := by simp [e, List.drop_append, drop_bitsOf]
  have p4 : ((coveredBits s).drop 16).take 3 = bitsOf s.ackSeq := by
    rw [show 16 = 11 + 5 from rfl, ← List.drop_drop, p3]; simp [List.drop_append]
  have p5 : ((coveredBits s).drop 19).take 4 = bitsOf x := by
    rw [show 19 = 11 + 8 from rfl, ← List.drop_drop, p3]; simp
  have p6 : ((coveredBits s).drop 24).take 8 = bitsOf s.echo := by
    rw [show 24 = 11 + 13 from rfl, ← List.drop_drop, p3]; simp [List.drop_append, drop_bitsOf]
  have p7 : (coveredBits s).drop 32 = bitsOfBytes s.payload ++ [] := by
    rw [show 32 = 11 + 21 from rfl, ← List.drop_drop, p3]; simp [List.drop_append, drop_bitsOf]
  have p8 : ∀ i, (coveredBits s).getD (11 + i) false = ((coveredBits s).drop 11).getD i false := by simp [List.getD]
  have q0 := p8 0
  have q1 := p8 1
  have q2 := p8 2
  have q3 := p8 3
  rw [p3] at q0 q1 q2 q3
  simp only [segmentOf, p0, p1, p2, p4, p5, p6, p7, fieldOf_bitsOf, segKindOf_code, hp, if_pos h, q0, q1, q2, q3,
    bytesOf_bitsOfBytes]
  simp

/-- The value of a header's length field in range is the number it spells. -/
theorem fieldOf_length {p : Nat} (h : p ≤ 8) : fieldOf 4 ((List.range 4).map fun i => p.testBit (3 - i)) = BitVec.ofNat 4 p := by
  interval_cases p <;> decide

/-- Any header of a kind 0 to 3 and a length in range, with its payload, spells a segment: the one whose own bits are these with
the two spare bits cleared (R140, R196). -/
theorem segmentOf_spells {header body : List Bool} {p : Nat} (hh : header.length = 32) (hk : header[0]? = some false)
    (hp : (fieldOf 4 ((header.drop 19).take 4)).toNat = p) (h8 : p ≤ 8) (hb : body.length = 8 * p) :
    ∃ seg, segmentOf (header ++ body) = some seg ∧ seg.payload.length = p ∧
      coveredBits seg = ((header ++ body).set 15 false).set 23 false := by
  match header, hh with
  | [a0, a1, a2, a3, a4, a5, a6, a7, a8, a9, a10, a11, a12, a13, a14, a15, a16, a17, a18, a19, a20, a21, a22, a23, a24, a25,
     a26, a27, a28, a29, a30, a31], _ =>
    simp at hk
    subst hk
    obtain ⟨k, hkind, hcode⟩ : ∃ k, segKindOf (fieldOf 3 [false, a1, a2]) = some k ∧
        bitsOf (segKindCode k) = [false, a1, a2] := by
      cases a1 <;> cases a2 <;> simp only [segKindOf] <;> simp <;> decide
    simp only [List.drop_succ_cons, List.drop_zero, List.take_succ_cons, List.take_zero] at hp
    have e4 : BitVec.ofNat 4 p = fieldOf 4 [a19, a20, a21, a22] := by rw [← hp]; simp
    simp only [segmentOf, List.cons_append, List.nil_append, List.drop_succ_cons, List.drop_zero, List.take_succ_cons,
      List.take_zero, hkind, hp, if_pos h8]
    refine ⟨_, rfl, length_bytesOf, ?_⟩
    simp [coveredBits, headerBits, hcode, length_bytesOf, e4, bitsOf_fieldOf, bitsOfBytes_bytesOf hb]


/-- A header of a kind 0 to 3 and a length in range is followed by its payload and the CRC (R140). -/
theorem cellsAfterHeader_good {header : List Bool} {p : Nat} (hh : header.length = 32) (hk : header[0]? = some false)
    (hp : (fieldOf 4 ((header.drop 19).take 4)).toNat = p) (h8 : p ≤ 8) : cellsAfterHeader header = some (8 * p + 16) := by
  have hkind : (segKindOf (fieldOf 3 (header.take 3))).isSome := by
    match header, hh with
    | a :: b :: c :: rest, _ =>
      simp at hk; subst hk
      simp only [List.take_succ_cons, List.take_zero]
      cases b <;> cases c <;> decide
  simp [cellsAfterHeader, hkind, hp, h8]

/-- A segment's own header is followed by its payload and the CRC. -/
theorem cellsAfterHeader_headerBits {s : Segment} (h : s.payload.length ≤ 8) :
    cellsAfterHeader (headerBits s) = some (8 * s.payload.length + 16) := by
  refine cellsAfterHeader_good (by simp) ?_ ?_ h
  · cases hk : s.kind <;> simp [headerBits, hk, segKindCode, bitsOf, BitVec.getMsbD]
  · simp [headerBits, List.drop_append, drop_bitsOf]
    omega

/-! ### Closing spans -/

/-- A stage a receive part passes through: the cells still to come lie in their bounds (R139, R140). -/
def StageOk : RxStage → Prop
  | .preamble n _ => n < 24
  | .header l _ _ => 1 ≤ l ∧ l ≤ 32
  | .rest l _ _ => 1 ≤ l ∧ l ≤ 80

/-- The most cells a stage can still decode. -/
def cellsLeft : RxStage → Nat
  | .preamble n _ => 24 - n + 112
  | .header l _ _ => l + 80
  | .rest l _ _ => l

theorem cellsLeft_le {st : RxStage} (h : StageOk st) : cellsLeft st ≤ 136 := by
  cases st <;> simp_all [StageOk, cellsLeft] <;> omega

theorem takeCell_stage {st st' : RxStage} {v : Bool} (h : StageOk st) (ht : takeCell st v = .inr st') :
    StageOk st' ∧ cellsLeft st' < cellsLeft st := by
  cases st with
  | preamble n cells =>
    simp only [takeCell] at ht
    split at ht
    · cases ht; simp_all [StageOk, cellsLeft]
    · split at ht
      · cases ht
      · cases ht; simp_all [StageOk, cellsLeft]; omega
  | header l lead cells =>
    simp only [takeCell] at ht
    split at ht
    · split at ht
      · rename_i k hk
        cases ht
        unfold cellsAfterHeader at hk
        split at hk
        · cases hk; simp_all [StageOk, cellsLeft]; omega
        · cases hk
      · cases ht
    · cases ht; simp_all [StageOk, cellsLeft]; omega
  | rest l lead cells =>
    simp only [takeCell] at ht
    split at ht
    · cases ht
    · cases ht; simp_all [StageOk, cellsLeft]; omega

/-- A cell's span has ended: the class is settled, or the next cell's stage is in order and one nearer to its end. -/
theorem closeCell_cases {t : Tracking} {st : RxStage} (h : StageOk st) :
    (∃ r, closeCell t st = .settled r) ∨
    ∃ t' st', closeCell t st = .decode t' st' ∧ StageOk st' ∧ cellsLeft st' < cellsLeft st := by
  unfold closeCell
  split
  · exact .inl ⟨_, rfl⟩
  · split
    · exact .inl ⟨_, rfl⟩
    · rename_i ht; exact .inr ⟨_, _, rfl, takeCell_stage h ht⟩

@[simp] theorem closeSpans_settled (n b : Nat) (r : Reception) : closeSpans n b (.settled r) = .settled r := by
  cases n <;> rfl

@[simp] theorem closeSpans_wait (n b : Nat) (run : List Edge) : closeSpans n b (.wait run) = .wait run := by
  cases n <;> rfl

@[simp] theorem closeSpans_late (n b : Nat) (d : Int) (c : Nat) (cells : List Bool) :
    closeSpans n b (.late d c cells) = .late d c cells := by
  cases n <;> rfl

@[simp] theorem closeSpans_zero (b : Nat) (p : RxPhase) : closeSpans 0 b p = p := rfl

theorem closeSpans_succ (n b : Nat) (t : Tracking) (st : RxStage) :
    closeSpans (n + 1) b (.decode t st) =
      if spanEnd st t.centre < b then closeSpans n b (closeCell t st) else .decode t st := rfl

/-- Fuel for every cell that is left is enough. -/
theorem closeSpans_fuel {n m b : Nat} {t : Tracking} {st : RxStage} (h : StageOk st) (hn : cellsLeft st ≤ n)
    (hm : cellsLeft st ≤ m) : closeSpans n b (.decode t st) = closeSpans m b (.decode t st) := by
  induction n generalizing m t st with
  | zero => cases st <;> simp_all [StageOk, cellsLeft]
  | succ n ih =>
    cases m with
    | zero => cases st <;> simp_all [StageOk, cellsLeft]
    | succ m =>
      rw [closeSpans_succ, closeSpans_succ]
      split
      · obtain ⟨r, hr⟩ | ⟨t', st', hr, h', hl⟩ := closeCell_cases (t := t) h
        · simp [hr]
        · rw [hr]; exact ih h' (by omega) (by omega)
      · rfl

/-- The present span closes if it ended before, and what follows goes on from the next cell. -/
theorem closeSpans_decode {b : Nat} {t : Tracking} {st : RxStage} (h : StageOk st) :
    closeSpans cellFuel b (.decode t st) =
      if spanEnd st t.centre < b then closeSpans cellFuel b (closeCell t st) else .decode t st := by
  have hl := cellsLeft_le h
  rw [show cellFuel = 136 + 1 from rfl, closeSpans_succ]
  split
  · obtain ⟨r, hr⟩ | ⟨t', st', hr, h', hl'⟩ := closeCell_cases (t := t) h
    · simp [hr]
    · rw [hr]; exact closeSpans_fuel h' (by omega) (by omega)
  · rfl

/-! ### Hearing level changes -/

@[simp] theorem hearEdge_settled (r : Reception) (e : Edge) : hearEdge (.settled r) e = .settled r := by simp [hearEdge]

@[simp] theorem hearEdge_late (d : Int) (c : Nat) (cells : List Bool) (e : Edge) :
    hearEdge (.late d c cells) e = .late d c cells := by simp [hearEdge]

@[simp] theorem foldl_hearEdge_settled (r : Reception) (es : List Edge) :
    es.foldl hearEdge (.settled r) = .settled r := by induction es <;> simp_all

@[simp] theorem foldl_hearEdge_late (d : Int) (c : Nat) (cells : List Bool) (es : List Edge) :
    es.foldl hearEdge (.late d c cells) = .late d c cells := by induction es <;> simp_all

/-- Level changes inside the present span join it. -/
theorem foldl_hearEdge_inside {es : List Edge} {t : Tracking} {st : RxStage} (h : StageOk st)
    (hes : ∀ e ∈ es, e.time ≤ spanEnd st t.centre) :
    es.foldl hearEdge (.decode t st) = .decode { t with span := t.span ++ es } st := by
  induction es generalizing t with
  | nil => simp
  | cons e es ih =>
    have he : ¬ spanEnd st t.centre < e.time := by have := hes e (by simp); omega
    rw [List.foldl_cons, show hearEdge (.decode t st) e = .decode { t with span := t.span ++ [e] } st by
      simp [hearEdge, closeSpans_decode h, he],
      ih (t := { t with span := t.span ++ [e] }) (fun e he => hes e (by simp [he]))]
    simp

/-- A level change after the present span is heard in a later one. -/
theorem hearEdge_after {t : Tracking} {st : RxStage} {e : Edge} (h : StageOk st) (he : spanEnd st t.centre < e.time) :
    hearEdge (.decode t st) e = hearEdge (closeCell t st) e := by
  simp only [hearEdge, closeSpans_decode h, if_pos he]

/-- One span: the level changes up to its end are judged with its cell, and the later ones are heard from the next cell on. -/
theorem hear_span {b : Nat} {inside after : List Edge} {t : Tracking} {st : RxStage} (h : StageOk st)
    (hb : spanEnd st t.centre < b) (hi : ∀ e ∈ inside, e.time ≤ spanEnd st t.centre)
    (ha : ∀ e ∈ after, spanEnd st t.centre < e.time) :
    closeSpans cellFuel b ((inside ++ after).foldl hearEdge (.decode t st)) =
      closeSpans cellFuel b (after.foldl hearEdge (closeCell { t with span := t.span ++ inside } st)) := by
  rw [List.foldl_append, foldl_hearEdge_inside h hi]
  cases after with
  | nil => simp [closeSpans_decode h, hb]
  | cons e es =>
    rw [List.foldl_cons, List.foldl_cons,
      hearEdge_after (t := { t with span := t.span ++ inside }) h (ha e (by simp))]

/-! ### The level changes of cells -/

theorem edgesFrom_time {half time : Nat} {level : Bool} {ls : List Bool} :
    ∀ e ∈ edgesFrom half level time ls, time ≤ e.time := by
  induction ls generalizing time level with
  | nil => simp [edgesFrom]
  | cons l ls ih =>
    intro e he
    unfold edgesFrom at he
    split at he
    · have := ih e he; omega
    · rcases List.mem_cons.mp he with rfl | he
      · simp
      · have := ih e he; omega

/-- The boundary level change after a cell of value `v` whose middle lies at `m`, if there is one: before a cell of the same
value, and where a line left low returns to its idle level (R130). -/
def boundaryEdges (half m : Nat) (v : Bool) (cells : List Bool) : List Edge :=
  if (match cells with | [] => true | c :: _ => !c) = v then [] else [{ time := m + half, rising := !v }]

/-- The level changes from the next cell's middle on. -/
def laterEdges (half m : Nat) : List Bool → List Edge
  | [] => []
  | c :: cs => { time := m + 2 * half, rising := c } :: (boundaryEdges half (m + 2 * half) c cs ++ laterEdges half (m + 2 * half) cs)

theorem edgesFrom_halfLevels (half m : Nat) (v : Bool) (cells : List Bool) :
    edgesFrom half v (m + half) (halfLevels cells ++ [true]) = boundaryEdges half m v cells ++ laterEdges half m cells := by
  induction cells generalizing m v with
  | nil => cases v <;> simp [halfLevels, edgesFrom, boundaryEdges, laterEdges]
  | cons c cs ih =>
    have ih' := ih (m + 2 * half) c
    rw [show m + 2 * half + half = m + half + half + half by omega] at ih'
    have e2 : m + half + half = m + 2 * half := by omega
    simp only [halfLevels] at ih' ⊢
    cases v <;> cases c <;>
      simp [edgesFrom, halfLevel, boundaryEdges, laterEdges, e2] <;>
      simpa [e2, halfLevel, boundaryEdges] using ih'

theorem boundaryEdges_time {half m : Nat} {v : Bool} {cells : List Bool} :
    ∀ e ∈ boundaryEdges half m v cells, e.time = m + half := by
  intro e he
  simp only [boundaryEdges, List.mem_ite_nil_left, List.mem_singleton] at he
  rw [he.2]

theorem laterEdges_time {half m : Nat} {cells : List Bool} : ∀ e ∈ laterEdges half m cells, m + 2 * half ≤ e.time := by
  induction cells generalizing m with
  | nil => simp [laterEdges]
  | cons c cs ih =>
    intro e he
    simp only [laterEdges, List.mem_cons, List.mem_append] at he
    rcases he with rfl | he | he
    · simp
    · have := boundaryEdges_time e he; omega
    · have := ih e he; omega

/-! ### Cells sent at a station's rate -/

/-- The rates at which every level change of a run of cells falls into its zone: up to 8 % slow or fast (R138). -/
def GoodHalf (half : Nat) : Prop := 460 ≤ half ∧ half ≤ 540

/-- What a span holds is judged as the level changes from the next middle on: nothing comes before them, or only what the first
cell after lock leaves out (R138). -/
def Leads (t : Tracking) (half m : Nat) (lead : List Edge) : Prop :=
  t.centre = m + 1000 ∧ t.span = [] ∧ (∀ e ∈ lead, e.time ≤ m + half) ∧
  ∀ es : List Edge, (∀ e ∈ es, m + 2 * half ≤ e.time) →
    judgeCell (m + 1000) t.after (lead ++ es) = judgeCell (m + 1000) none es

theorem leads_none {t : Tracking} {half m : Nat} (h1 : t.centre = m + 1000) (h2 : t.span = []) (h3 : t.after = none) :
    Leads t half m [] := ⟨h1, h2, by simp, by simp [h3]⟩

theorem leads_lock {t : Tracking} {half m : Nat} {v : Bool} {cells : List Bool} (hh : GoodHalf half)
    (h1 : t.centre = m + 1000) (h2 : t.span = []) (h3 : t.after = some m) :
    Leads t half m (boundaryEdges half m v cells) := by
  unfold GoodHalf at hh
  refine ⟨h1, h2, fun e he => by have := boundaryEdges_time e he; omega, fun es hes => ?_⟩
  unfold judgeCell
  have e1 : (boundaryEdges half m v cells ++ es).filter (fun e => !near e.time (m + 500) 125) = es := by
    rw [List.filter_append, List.filter_eq_nil_iff.mpr, List.nil_append, List.filter_eq_self]
    · intro e he; have := hes e he; simp [near]; omega
    · intro e he; have := boundaryEdges_time e he; simp [near]; omega
  simp only [h3, e1]

/-- A cell's middle, with or without the boundary after it, decodes to the cell's value (R138). -/
theorem judgeCell_clean {half m : Nat} {c v : Bool} {cells : List Bool} (hh : GoodHalf half) :
    judgeCell (m + 1000) none [{ time := m + 2 * half, rising := c }] = some (c, m + 2 * half) ∧
    judgeCell (m + 1000) none ({ time := m + 2 * half, rising := c } :: boundaryEdges half (m + 2 * half) v cells) =
      some (c, m + 2 * half) := by
  obtain ⟨h1, h2⟩ := hh
  have a1 : near (m + 2 * half) (m + 1000) 250 = true := by simp [near]; omega
  have a2 : near (m + 2 * half) (m + 1000 + 500) 125 = false := by simp [near]; omega
  have a3 : near (m + 2 * half + half) (m + 1000) 250 = false := by simp [near]; omega
  have a4 : near (m + 2 * half + half) (m + 1000 + 500) 125 = true := by simp [near]; omega
  constructor
  · simp [judgeCell, a1, a2]
  · unfold boundaryEdges; split <;> split <;> simp [judgeCell, a1, a2, a3, a4]

theorem spanEnd_bounds (st : RxStage) (c : Nat) : c + 500 ≤ spanEnd st c ∧ spanEnd st c ≤ c + 625 := by
  unfold spanEnd; split <;> omega

theorem takeCell_spanEnd {st st' : RxStage} {c : Bool} (h : takeCell st c = .inr st') (x : Nat) :
    spanEnd st x = x + 625 := by
  unfold spanEnd; split
  · simp [takeCell] at h
  · rfl

/-- One clean cell: where it settles the class, nothing after it is heard. -/
theorem hear_cell_end {b half m lim : Nat} {c : Bool} {cells got : List Bool} {cls : RxClass} {lead : List Edge}
    {t : Tracking} {st : RxStage} (h : StageOk st) (hh : GoodHalf half) (hl : Leads t half m lead)
    (ht : takeCell st c = .inl (cls, got)) (hb : spanEnd st (m + 1000) < b) (hlim : spanEnd st (m + 1000) < lim) :
    closeSpans cellFuel b (((lead ++ laterEdges half m (c :: cells)).filter (fun e => decide (e.time < lim))).foldl hearEdge
      (.decode t st)) =
    .settled (settledWith cls false got { t with centre := m + 2 * half + 1000 }) := by
  have hs := spanEnd_bounds st (m + 1000)
  obtain ⟨l1, l2, l3, l4⟩ := hl
  have hg := hh; obtain ⟨g1, g2⟩ := hg
  have key : ∃ inside after : List Edge, lead ++ laterEdges half m (c :: cells) = inside ++ after ∧
      (∀ e ∈ inside, e.time ≤ spanEnd st (m + 1000)) ∧ (∀ e ∈ after, spanEnd st (m + 1000) < e.time) ∧
      judgeCell (m + 1000) t.after inside = some (c, m + 2 * half) := by
    by_cases hx : m + 3 * half ≤ spanEnd st (m + 1000)
    · refine ⟨lead ++ { time := m + 2 * half, rising := c } :: boundaryEdges half (m + 2 * half) c cells,
        laterEdges half (m + 2 * half) cells, by simp [laterEdges], ?_, ?_, ?_⟩
      · intro e he
        simp only [List.mem_append, List.mem_cons] at he
        rcases he with he | rfl | he
        · have := l3 e he; omega
        · simp; omega
        · have := boundaryEdges_time e he; omega
      · intro e he; have := laterEdges_time e he; omega
      · rw [l4, (judgeCell_clean hh).2]
        intro e he
        simp only [List.mem_cons] at he
        rcases he with rfl | he
        · simp
        · have := boundaryEdges_time e he; omega
    · refine ⟨lead ++ [{ time := m + 2 * half, rising := c }],
        boundaryEdges half (m + 2 * half) c cells ++ laterEdges half (m + 2 * half) cells, by simp [laterEdges], ?_, ?_, ?_⟩
      · intro e he
        simp only [List.mem_append, List.mem_singleton] at he
        rcases he with he | rfl
        · have := l3 e he; omega
        · simp; omega
      · intro e he
        simp only [List.mem_append] at he
        rcases he with he | he
        · have := boundaryEdges_time e he; omega
        · have := laterEdges_time e he; omega
      · rw [l4, (judgeCell_clean (v := c) (cells := []) hh).1]
        intro e he; simp at he; subst he; simp
  obtain ⟨inside, after, e1, e2, e3, e4⟩ := key
  have f1 : inside.filter (fun e => decide (e.time < lim)) = inside := by
    rw [List.filter_eq_self]; intro e he; have := e2 e he; simp; omega
  rw [e1, List.filter_append, f1, hear_span h (by rw [l1]; exact hb) (by rw [l1]; exact e2)
    (by rw [l1]; intro e he; exact e3 e (List.mem_of_mem_filter he))]
  simp [closeCell, l1, l2, e4, ht, settledWith]

/-- One clean cell that settles nothing: the level changes after its span are heard from the next stage on. -/
theorem hear_cell_next {b half m : Nat} {c : Bool} {cells : List Bool} {lead tail : List Edge}
    {t : Tracking} {st st' : RxStage} (h : StageOk st) (hh : GoodHalf half) (hl : Leads t half m lead)
    (ht : takeCell st c = .inr st') (hb : m + 1625 < b) (htail : ∀ e ∈ tail, m + 1625 < e.time) :
    closeSpans cellFuel b ((lead ++ { time := m + 2 * half, rising := c } :: boundaryEdges half (m + 2 * half) c cells ++
      tail).foldl hearEdge (.decode t st)) =
    closeSpans cellFuel b (tail.foldl hearEdge
      (.decode { dated := t.dated, centre := m + 2 * half + 1000, after := none, span := [] } st')) := by
  have hs := takeCell_spanEnd ht (m + 1000)
  obtain ⟨l1, l2, l3, l4⟩ := hl
  have hg := hh; obtain ⟨g1, g2⟩ := hg
  have e2 : ∀ e ∈ lead ++ { time := m + 2 * half, rising := c } :: boundaryEdges half (m + 2 * half) c cells,
      e.time ≤ m + 1625 := by
    intro e he
    simp only [List.mem_append, List.mem_cons] at he
    rcases he with he | rfl | he
    · have := l3 e he; omega
    · simp; omega
    · have := boundaryEdges_time e he; omega
  have e4 : judgeCell (m + 1000) t.after (lead ++ { time := m + 2 * half, rising := c } ::
      boundaryEdges half (m + 2 * half) c cells) = some (c, m + 2 * half) := by
    rw [l4, (judgeCell_clean hh).2]
    intro e he
    simp only [List.mem_cons] at he
    rcases he with rfl | he
    · simp
    · have := boundaryEdges_time e he; omega
  rw [hear_span h (by rw [l1, hs]; exact hb) (by rw [l1, hs]; exact e2)
    (by rw [l1, hs]; intro e he; have := htail e he; omega)]
  simp [closeCell, l1, l2, e4, ht]

/-- A run of cells decoded one after another. -/
def takeCells : RxStage → List Bool → (RxClass × List Bool) ⊕ RxStage
  | st, [] => .inr st
  | st, c :: cs =>
    match takeCell st c with
    | .inl r => .inl r
    | .inr st' => takeCells st' cs

theorem takeCells_stage {st st' : RxStage} {cells : List Bool} (h : StageOk st) (ht : takeCells st cells = .inr st') :
    StageOk st' := by
  induction cells generalizing st with
  | nil => simp [takeCells] at ht; exact ht ▸ h
  | cons c cs ih =>
    unfold takeCells at ht
    split at ht
    · cases ht
    · rename_i h'; exact ih (takeCell_stage h h').1 ht

/-- The level changes of a run of cells from the first one's middle on, with the boundary after the last. -/
def spanEdges (half m : Nat) : List Bool → List Bool → List Edge
  | [], _ => []
  | c :: cs, more =>
    { time := m + 2 * half, rising := c } :: boundaryEdges half (m + 2 * half) c (cs ++ more) ++
      spanEdges half (m + 2 * half) cs more

theorem laterEdges_append {half m : Nat} {cells more : List Bool} :
    laterEdges half m (cells ++ more) =
      spanEdges half m cells more ++ laterEdges half (m + 2 * half * cells.length) more := by
  induction cells generalizing m with
  | nil => simp [spanEdges]
  | cons c cs ih =>
    simp [laterEdges, spanEdges, ih, Nat.mul_add, Nat.add_assoc, Nat.add_comm (2 * half)]

theorem spanEdges_time {half m : Nat} {cells more : List Bool} :
    ∀ e ∈ spanEdges half m cells more, m + 2 * half ≤ e.time ∧ e.time ≤ m + 2 * half * cells.length + half := by
  induction cells generalizing m with
  | nil => simp [spanEdges]
  | cons c cs ih =>
    intro e he
    simp only [spanEdges, List.mem_append, List.mem_cons] at he
    simp only [List.length_cons, Nat.mul_add, Nat.mul_one]
    rcases he with (rfl | he) | he
    · constructor
      · simp
      · simp only; omega
    · have := boundaryEdges_time e he; omega
    · have := ih e he; omega

/-- Clean cells that settle nothing; what is heard after them is heard from the stage they lead to (R138 to R140). -/
theorem hear_cells {b half m : Nat} {cells more : List Bool} {lead tail : List Edge} {t : Tracking} {st st' : RxStage}
    (h : StageOk st) (hh : GoodHalf half) (hl : Leads t half m lead) (hne : cells ≠ []) (ht : takeCells st cells = .inr st')
    (hb : m + 2 * half * cells.length + 1625 < b + 2 * half)
    (htail : ∀ e ∈ tail, m + 2 * half * cells.length + 1625 < e.time + 2 * half) :
    closeSpans cellFuel b ((lead ++ spanEdges half m cells more ++ tail).foldl hearEdge (.decode t st)) =
    closeSpans cellFuel b (tail.foldl hearEdge
      (.decode { dated := t.dated, centre := m + 2 * half * cells.length + 1000, after := none, span := [] } st')) := by
  induction cells generalizing t st m lead with
  | nil => exact absurd rfl hne
  | cons c cs ih =>
    unfold takeCells at ht
    split at ht
    · cases ht
    · rename_i s2 h2
      have hg := hh; obtain ⟨g1, g2⟩ := hg
      simp only [List.length_cons, Nat.mul_add, Nat.mul_one] at hb htail
      have step := hear_cell_next (b := b) (cells := cs ++ more) (tail := spanEdges half (m + 2 * half) cs more ++ tail)
        h hh hl h2 (by omega) (by
          intro e he
          rcases List.mem_append.mp he with he | he
          · have := spanEdges_time e he; omega
          · have := htail e he; omega)
      simp only [spanEdges, List.append_assoc, List.cons_append] at step ⊢
      rw [step]
      by_cases hcs : cs = []
      · subst hcs; simp [takeCells] at ht; subst ht; simp [spanEdges]
      · have := ih (t := { dated := t.dated, centre := m + 2 * half + 1000, after := none, span := [] }) (m := m + 2 * half)
          (lead := []) (takeCell_stage h h2).1 (leads_none rfl rfl rfl) hcs ht (by omega)
          (by intro e he; have := htail e he; omega)
        rw [List.nil_append] at this
        rw [this, List.length_cons, show m + 2 * half + 2 * half * cs.length = m + 2 * half * (cs.length + 1) by
          rw [Nat.mul_add]; omega]

/-! ### From the first level change to the class -/

/-- The level changes of a run of cells: the first cell's leading one where it is a 1, and from its middle on. -/
theorem cellEdges_cons {half t : Nat} {v : Bool} {cells : List Bool} :
    cellEdges half t (v :: cells) = (if v = true then [{ time := t, rising := false }] else []) ++
      { time := t + half, rising := v } :: (boundaryEdges half (t + half) v cells ++ laterEdges half (t + half) cells) := by
  rw [← edgesFrom_halfLevels]
  cases v <;> simp [cellEdges, halfLevels, halfLevel, edgesFrom]

/-- A level change in WAIT that does not follow the last of the candidate run within its zone starts a new run (R136). -/
theorem hearEdge_wait (run : List Edge) (e : Edge) :
    hearEdge (.wait run) e =
      let run' := match run with
        | [] => [e]
        | p :: _ => if near e.time (p.time + 1000) 250 then e :: run else [e]
      if run'.length = 4 then lockOn run' else .wait run' := by
  cases run <;> simp [hearEdge]

/-- The level changes of four alternating cells, to the fourth one's middle. -/
def lockEdges (half t : Nat) (v : Bool) : List Edge :=
  (if v = true then [{ time := t, rising := false }] else []) ++
  [{ time := t + half, rising := v }, { time := t + 3 * half, rising := !v }, { time := t + 5 * half, rising := v },
   { time := t + 7 * half, rising := !v }]

theorem lockEdges_time {half t : Nat} {v : Bool} : ∀ e ∈ lockEdges half t v, t ≤ e.time ∧ e.time ≤ t + 7 * half := by
  cases v <;> simp [lockEdges] <;> omega

/-- What the receive part has tracked when four alternating cells have locked it (R137, R138). -/
def locked (half t : Nat) : Tracking :=
  { dated := (t + half : Int) - 500, centre := t + 7 * half + 1000, after := some (t + 7 * half), span := [] }

/-- Four alternating cells lock: the first middle dates the preamble, the fourth starts the tracking (R136, R137). -/
theorem hear_lock {half t : Nat} {v : Bool} (hh : GoodHalf half) (ht : t + half < 16500) :
    (lockEdges half t v).foldl hearEdge (.wait []) = .decode (locked half t) (.preamble 0 [!v, v, !v, v]) := by
  obtain ⟨g1, g2⟩ := hh
  have n1 : near (t + half) (t + 1000) 250 = false := by simp [near]; omega
  have n2 : near (t + 3 * half) (t + half + 1000) 250 = true := by simp [near]; omega
  have n3 : near (t + 5 * half) (t + 3 * half + 1000) 250 = true := by simp [near]; omega
  have n4 : near (t + 7 * half) (t + 5 * half + 1000) 250 = true := by simp [near]; omega
  have hd : ¬ (16000 : Int) ≤ (t + half : Int) - 500 := by omega
  cases v <;> simp [lockEdges, locked, hearEdge_wait, n1, n2, n3, n4, lockOn, hd]

/-- The level changes of four alternating cells and the cells after them, to the boundary after the last. -/
def cleanEdges (half t : Nat) (v : Bool) (mid more : List Bool) : List Edge :=
  lockEdges half t v ++
    (boundaryEdges half (t + 7 * half) (!v) (mid ++ more) ++ spanEdges half (t + 7 * half) mid more)

theorem cellEdges_clean {half t : Nat} {v : Bool} {mid more : List Bool} :
    cellEdges half t (v :: (!v) :: v :: (!v) :: (mid ++ more)) =
      cleanEdges half t v mid more ++ laterEdges half (t + 7 * half + 2 * half * mid.length) more := by
  rw [cellEdges_cons]
  have a : t + half + 2 * half = t + 3 * half := by omega
  have b : t + 3 * half + 2 * half = t + 5 * half := by omega
  have c : t + 5 * half + 2 * half = t + 7 * half := by omega
  simp [cleanEdges, lockEdges, laterEdges, boundaryEdges, laterEdges_append, a, b, c]

theorem cleanEdges_time {half t : Nat} {v : Bool} {mid more : List Bool} :
    ∀ e ∈ cleanEdges half t v mid more, t ≤ e.time ∧ e.time ≤ t + 8 * half + 2 * half * mid.length := by
  intro e he
  simp only [cleanEdges, List.mem_append] at he
  rcases he with he | he | he
  · have := lockEdges_time e he; omega
  · have := boundaryEdges_time e he; omega
  · have := spanEdges_time e he; omega

/-- Four alternating cells and the clean cells after them that settle nothing: whatever is heard after them is heard from the
stage they lead to, tracked from the last one's middle, here `m` (R136 to R140). -/
theorem hear_clean {half t m b : Nat} {v : Bool} {mid more : List Bool} {tail : List Edge} {st : RxStage}
    (hh : GoodHalf half) (ht : t + half < 16500) (hmid : mid ≠ []) (hm : m = t + 7 * half + 2 * half * mid.length)
    (h1 : takeCells (.preamble 0 [!v, v, !v, v]) mid = .inr st) (hb : m + 1625 < b + 2 * half)
    (htail : ∀ e ∈ tail, m + 1625 < e.time + 2 * half) :
    closeSpans cellFuel b ((cleanEdges half t v mid more ++ tail).foldl hearEdge (.wait [])) =
    closeSpans cellFuel b (tail.foldl hearEdge
      (.decode { dated := (t + half : Int) - 500, centre := m + 1000, after := none, span := [] } st)) := by
  subst hm
  have := hear_cells (b := b) (t := locked half t) (tail := tail) (more := more)
    (lead := boundaryEdges half (t + 7 * half) (!v) (mid ++ more))
    (by simp [StageOk]) hh (leads_lock hh rfl rfl rfl) hmid h1 (by omega) (by intro e he; have := htail e he; omega)
  rw [cleanEdges, List.append_assoc, List.foldl_append, hear_lock hh ht, this]
  rfl

/-- The rest of a preamble and the delimiter lead from lock to the header (R139). -/
theorem takeCells_delimiter :
    takeCells (.preamble 0 [false, true, false, true]) (preambleCells.drop 4 ++ delimiterCells) =
      .inr (.header 32 (preambleCells ++ delimiterCells).reverse []) := by
  decide

theorem takeCells_append {st : RxStage} {xs ys : List Bool} :
    takeCells st (xs ++ ys) = match takeCells st xs with
      | .inl r => .inl r
      | .inr st' => takeCells st' ys := by
  induction xs generalizing st with
  | nil => rfl
  | cons x xs ih =>
    simp only [List.cons_append, takeCells]
    split
    · rfl
    · exact ih

/-- Each cell that settles nothing joins the cells decoded so far (R129). -/
theorem takeCell_decoded {st st' : RxStage} {v : Bool} (h : takeCell st v = .inr st') :
    decodedCells st' = decodedCells st ++ [v] := by
  cases st <;> simp only [takeCell] at h <;> repeat' split at h
  all_goals cases h
  all_goals simp [decodedCells]

theorem takeCells_decoded {st st' : RxStage} {cells : List Bool} (h : takeCells st cells = .inr st') :
    decodedCells st' = decodedCells st ++ cells := by
  induction cells generalizing st with
  | nil => simp [takeCells] at h; simp [h]
  | cons c cs ih =>
    unfold takeCells at h
    split at h
    · cases h
    · rename_i h'
      simp [ih h, takeCell_decoded h']

/-- The cell that settles the class joins them too (R129). -/
theorem takeCell_settled {st : RxStage} {v : Bool} {cls : RxClass} {got : List Bool} (h : takeCell st v = .inl (cls, got)) :
    got = decodedCells st ++ [v] := by
  cases st <;> simp only [takeCell] at h <;> repeat' split at h
  all_goals cases h
  all_goals simp [decodedCells]

/-- Header cells short of the last only gather (R140). -/
theorem takeCells_header {l : Nat} {lead cells got : List Bool} (h : 1 ≤ l) :
    takeCells (.header (l + cells.length) lead got) cells = .inr (.header l lead (cells.reverse ++ got)) := by
  induction cells generalizing got with
  | nil => rfl
  | cons c cs ih =>
    simp [takeCells, takeCell, show l ≠ 0 by omega, ← Nat.add_assoc, ih]

/-- Body cells short of the last only gather (R140). -/
theorem takeCells_rest {l : Nat} {lead cells got : List Bool} (h : 1 ≤ l) :
    takeCells (.rest (l + cells.length) lead got) cells = .inr (.rest l lead (cells.reverse ++ got)) := by
  induction cells generalizing got with
  | nil => rfl
  | cons c cs ih =>
    simp [takeCells, takeCell, show l ≠ 0 by omega, ← Nat.add_assoc, ih]

/-- A whole header that is no MALFORMED one, and the body cells short of the last (R140). -/
theorem takeCells_body {lead header body : List Bool} {k l : Nat} (hh : header.length = 32)
    (hk : cellsAfterHeader header = some k) (hl : 1 ≤ l) (hb : k = l + body.length) :
    takeCells (.header 32 lead []) (header ++ body) = .inr (.rest l lead (body.reverse ++ header.reverse)) := by
  obtain ⟨init, x, rfl⟩ : ∃ init x, header = init ++ [x] :=
    ⟨header.dropLast, header.getLast (by intro h; simp [h] at hh), (List.dropLast_append_getLast _).symm⟩
  have hi : init.length = 31 := by simpa using hh
  have h1 : takeCells (.header 32 lead []) init = .inr (.header 1 lead init.reverse) := by
    have := takeCells_header (l := 1) (lead := lead) (cells := init) (got := []) (by omega)
    simpa [hi] using this
  have h2 : takeCell (.header 1 lead init.reverse) x = .inr (.rest k lead (x :: init.reverse)) := by
    simp [takeCell, hk]
  rw [takeCells_append, takeCells_append, h1]
  simp only [takeCells, h2]
  rw [hb, takeCells_rest hl]
  simp

/-- Cells sent by a station whose clock is up to 8 % slow or fast: the cell that settles the class settles it at its span's end,
whatever is sent after it (R136 to R141). `m` is the middle of the cell before it. -/
theorem hear_cells_settled {half t m upTo : Nat} {v c : Bool} {mid more got : List Bool} {st : RxStage} {cls : RxClass}
    (hh : GoodHalf half) (ht : t + half < 16500) (hmid : mid ≠ []) (hm : m = t + 7 * half + 2 * half * mid.length)
    (h1 : takeCells (.preamble 0 [!v, v, !v, v]) mid = .inr st) (h2 : takeCell st c = .inl (cls, got))
    (hc : spanEnd st (m + 1000) < closing) (hu : spanEnd st (m + 1000) ≤ upTo) :
    hear (cellEdges half t (v :: (!v) :: v :: (!v) :: (mid ++ c :: more))) upTo (.wait []) =
      .settled { cls := cls, noise := true, atClose := false, dated := some ((t + half : Int) - 500),
                 centre := some (m + 2 * half + 1000), cells := got } := by
  have hg := hh; obtain ⟨g1, g2⟩ := hg
  have hs := spanEnd_bounds st (m + 1000)
  have hlim : ∃ lim, (∀ e : Edge, (decide (e.time ≤ upTo) && decide (e.time < closing)) = decide (e.time < lim)) ∧
      spanEnd st (m + 1000) < lim := by
    refine ⟨min (upTo + 1) closing, fun e => ?_, by omega⟩
    rw [← Bool.decide_and, decide_eq_decide]
    omega
  obtain ⟨lim, hl1, hl2⟩ := hlim
  have hb : spanEnd st (m + 1000) < min upTo closing + 1 := by omega
  have hst := takeCells_stage (st := .preamble 0 [!v, v, !v, v]) (by simp [StageOk]) h1
  have key : closeSpans cellFuel (min upTo closing + 1)
      (((cellEdges half t (v :: (!v) :: v :: (!v) :: (mid ++ c :: more))).filter
        (fun e => decide (e.time ≤ upTo) && decide (e.time < closing))).foldl hearEdge (.wait [])) =
      .settled { cls := cls, noise := true, atClose := false, dated := some ((t + half : Int) - 500),
                 centre := some (m + 2 * half + 1000), cells := got } := by
    simp only [hl1]
    rw [cellEdges_clean, ← hm, List.filter_append, List.filter_eq_self.mpr
        (by intro e he; have := cleanEdges_time e he; simp; omega),
      hear_clean hh ht hmid hm h1 (by omega)
        (by intro e he; have := laterEdges_time e (List.mem_of_mem_filter he); omega)]
    have := hear_cell_end (b := min upTo closing + 1) (lim := lim) (cells := more) (lead := [])
      (t := { dated := (t + half : Int) - 500, centre := m + 1000, after := none, span := [] })
      hst hh (leads_none rfl rfl rfl) h2 hb hl2
    simpa [settledWith] using this
  unfold hear
  simp only [key]
  split <;> rfl

/-! ### A settled class stays -/

theorem closeSpans_settled_later {n b b' : Nat} {p : RxPhase} {r : Reception} (h : closeSpans n b p = .settled r)
    (hb : b ≤ b') : closeSpans n b' p = .settled r := by
  induction n generalizing p with
  | zero => exact h
  | succ n ih =>
    cases p with
    | decode t st =>
      rw [closeSpans_succ] at h ⊢
      split at h
      · rw [if_pos (by omega)]; exact ih h
      · cases h
    | wait run => simp at h
    | late d c => simp at h
    | settled r' => simpa using h

/-- Level changes after the time at which a class was settled change nothing. -/
theorem foldl_hearEdge_settled_before {b b' : Nat} {es : List Edge} {p : RxPhase} {r : Reception}
    (h : closeSpans cellFuel b p = .settled r) (hes : ∀ e ∈ es, b ≤ e.time) (hb : b ≤ b') :
    closeSpans cellFuel b' (es.foldl hearEdge p) = .settled r := by
  cases es with
  | nil => exact closeSpans_settled_later h hb
  | cons e es =>
    have : hearEdge p e = .settled r := by
      simp [hearEdge, closeSpans_settled_later h (hes e (by simp))]
    simp [this]

theorem edgesFrom_sorted {half time : Nat} {level : Bool} {ls : List Bool} :
    (edgesFrom half level time ls).Pairwise (fun a b => a.time ≤ b.time) := by
  induction ls generalizing time level with
  | nil => simp [edgesFrom]
  | cons l ls ih =>
    unfold edgesFrom
    split
    · exact ih
    · refine List.pairwise_cons.mpr ⟨fun e he => ?_, ih⟩
      have := edgesFrom_time e he
      simp only
      omega

/-- A class settled by a time before the closing is the class at every later time (R142). -/
theorem hear_settled_later {edges : List Edge} {u u' : Nat} {r : Reception} {run : List Edge}
    (hs : edges.Pairwise (fun a b => a.time ≤ b.time)) (hu : u < closing) (huu : u ≤ u')
    (h : hear edges u (.wait run) = .settled r) : hear edges u' (.wait run) = .settled r := by
  unfold hear at h
  simp only [if_neg (show ¬ closing ≤ u by omega), show min u closing = u by omega] at h
  have split : ∃ later : List Edge, (∀ e ∈ later, u + 1 ≤ e.time) ∧
      edges.filter (fun e => decide (e.time ≤ u') && decide (e.time < closing)) =
      edges.filter (fun e => decide (e.time ≤ u) && decide (e.time < closing)) ++ later := by
    clear h
    induction edges with
    | nil => exact ⟨[], by simp, rfl⟩
    | cons e es ih =>
      obtain ⟨h1, h2⟩ := List.pairwise_cons.mp hs
      by_cases he : e.time ≤ u
      · obtain ⟨later, l1, l2⟩ := ih h2
        have a : e.time < closing := by omega
        have b : e.time ≤ u' := by omega
        exact ⟨later, l1, by simp only [List.filter_cons, he, a, b, l2]; simp⟩
      · refine ⟨(e :: es).filter (fun e => decide (e.time ≤ u') && decide (e.time < closing)), ?_, ?_⟩
        · intro x hx
          rcases List.mem_cons.mp (List.mem_of_mem_filter hx) with rfl | hx
          · omega
          · have := h1 x hx; omega
        · rw [(List.filter_eq_nil_iff (l := e :: es) (p := fun e => decide (e.time ≤ u) && decide (e.time < closing))).mpr,
            List.nil_append]
          intro x hx
          rcases List.mem_cons.mp hx with rfl | hx
          · simp; omega
          · have := h1 x hx; simp; omega
  obtain ⟨later, l1, l2⟩ := split
  have key := foldl_hearEdge_settled_before (b' := min u' closing + 1) h l1 (by omega)
  unfold hear
  simp only [l2, List.foldl_append, key]
  split <;> rfl

/-- Before the end of the span of the cell that settles the class, nothing is settled. -/
theorem hear_cells_open {half t m upTo : Nat} {v : Bool} {mid more : List Bool} {st : RxStage}
    (hh : GoodHalf half) (ht : t + half < 16500) (hmid : mid ≠ []) (hm : m = t + 7 * half + 2 * half * mid.length)
    (h1 : takeCells (.preamble 0 [!v, v, !v, v]) mid = .inr st) (hc : spanEnd st (m + 1000) < closing)
    (hu : upTo < spanEnd st (m + 1000)) :
    ∀ r, hear (cellEdges half t (v :: (!v) :: v :: (!v) :: (mid ++ more))) upTo (.wait []) ≠ .settled r := by
  intro r hr
  have hg := hh; obtain ⟨g1, g2⟩ := hg
  have hs := spanEnd_bounds st (m + 1000)
  have hst := takeCells_stage (st := .preamble 0 [!v, v, !v, v]) (by simp [StageOk]) h1
  have late := hear_settled_later (u' := spanEnd st (m + 1000) - 1) edgesFrom_sorted (by omega) (by omega) hr
  unfold hear at late
  simp only [if_neg (show ¬ closing ≤ spanEnd st (m + 1000) - 1 by omega),
    show min (spanEnd st (m + 1000) - 1) closing + 1 = spanEnd st (m + 1000) by omega] at late
  have hl : ∀ e : Edge, (decide (e.time ≤ spanEnd st (m + 1000) - 1) && decide (e.time < closing)) =
      decide (e.time < spanEnd st (m + 1000)) := by
    intro e; rw [← Bool.decide_and, decide_eq_decide]; omega
  simp only [hl] at late
  rw [show edgesFrom half true t (halfLevels (v :: (!v) :: v :: (!v) :: (mid ++ more)) ++ [true]) =
      cellEdges half t (v :: (!v) :: v :: (!v) :: (mid ++ more)) from rfl, cellEdges_clean, ← hm, List.filter_append,
    List.filter_eq_self.mpr (by intro e he; have := cleanEdges_time e he; simp; omega),
    hear_clean hh ht hmid hm h1 (by omega)
      (by intro e he; have := laterEdges_time e (List.mem_of_mem_filter he); omega),
    foldl_hearEdge_inside hst (fun e he => by have := (List.mem_filter.mp he).2; simp at this; simp; omega),
    closeSpans_decode hst] at late
  simp at late

/-- A segment that is not whole at bit time 152 is an overrun: the cell whose span has not ended by then, and what is sent after
it, count no more (R141). -/
theorem hear_cells_overrun {half t m : Nat} {v : Bool} {mid more : List Bool} {st : RxStage}
    (hh : GoodHalf half) (ht : t + half < 16500) (hmid : mid ≠ []) (hm : m = t + 7 * half + 2 * half * mid.length)
    (h1 : takeCells (.preamble 0 [!v, v, !v, v]) mid = .inr st) (hc : closing < spanEnd st (m + 1000))
    (hb : m + 1625 < closing + 2 * half) :
    receivePart (cellEdges half t (v :: (!v) :: v :: (!v) :: (mid ++ more))) =
      { cls := .collided, noise := true, atClose := true, dated := some ((t + half : Int) - 500),
        centre := some (m + 1000), cells := decodedCells st } := by
  have hg := hh; obtain ⟨g1, g2⟩ := hg
  have hst := takeCells_stage (st := .preamble 0 [!v, v, !v, v]) (by simp [StageOk]) h1
  have key : closeSpans cellFuel (min closing closing + 1)
      (((cellEdges half t (v :: (!v) :: v :: (!v) :: (mid ++ more))).filter
        (fun e => decide (e.time ≤ closing) && decide (e.time < closing))).foldl hearEdge (.wait [])) =
      .decode { dated := (t + half : Int) - 500, centre := m + 1000, after := none,
                span := (laterEdges half m more).filter fun e => decide (e.time < closing) } st := by
    have hl : ∀ e : Edge, (decide (e.time ≤ closing) && decide (e.time < closing)) = decide (e.time < closing) := by
      intro e; rw [← Bool.decide_and, decide_eq_decide]; omega
    simp only [hl]
    rw [cellEdges_clean, ← hm, List.filter_append, List.filter_eq_self.mpr
        (by intro e he; have := cleanEdges_time e he; simp; omega),
      hear_clean hh ht hmid hm h1 (by omega)
        (by intro e he; have := laterEdges_time e (List.mem_of_mem_filter he); omega),
      foldl_hearEdge_inside hst (fun e he => by have := (List.mem_filter.mp he).2; simp at this; simp; omega),
      closeSpans_decode hst, if_neg (by simp; omega)]
    simp
  unfold receivePart hear
  simp only [key]
  simp [closePart, settledWith]

end Sys2Proof.Machine
end

