-- ==== Sys2Proof/Laws/Queues.lean ====
section
/-! SUPPORT. Messages, queues and replies: looking a message up, changing a queue, joining the reply queue, and the length
and place of a segment. -/

namespace Sys2Proof.Machine

/-! ### Messages -/

theorem message_some {h : Nat} {s : State} {m : Message} (e : message h s = some m) :
    m ∈ s.mpl.messages ∧ m.handle = h :=
  ⟨List.mem_of_find?_eq_some e, by simpa using List.find?_some e⟩

theorem message_none {h : Nat} {s : State} : message h s = none ↔ ∀ m ∈ s.mpl.messages, m.handle ≠ h := by
  simp [message]

/-- Handles are distinct, so a message is the one its handle names (R79). -/
theorem message_of_mem {s : State} {m : Message} (hn : (s.mpl.messages.map Message.handle).Nodup)
    (hm : m ∈ s.mpl.messages) : message m.handle s = some m := by
  unfold message
  generalize s.mpl.messages = ms at *
  induction ms with
  | nil => cases hm
  | cons x xs ih =>
    simp only [List.map_cons, List.nodup_cons] at hn
    rcases List.mem_cons.mp hm with rfl | hx
    · simp
    · have hne : x.handle ≠ m.handle := fun e => hn.1 (e ▸ List.mem_map_of_mem hx)
      simp only [List.find?_cons, beq_eq_false_iff_ne.mpr hne]
      exact ih hn.2 hx

theorem message_congr {h : Nat} {s t : State} (e : t.mpl.messages = s.mpl.messages) : message h t = message h s := by
  simp [message, e]

/-! ### Queues -/

theorem station_setQueue_other {a d : Nat} (q : List Nat) (s : State) (h : a ≠ d) :
    station a (setQueue d q s) = station a s := by
  unfold setQueue
  split
  · rfl
  · exact (station_congr rfl).trans (station_onStation_other _ _ h)

theorem station_setQueue_same {d : Nat} (q : List Nat) (s : State) (h : d ≠ 31) :
    station d (setQueue d q s) = (station d s).map fun st =>
      { st with queue := q, inFlight := headRecord InFlight.handle freshInFlight q st.inFlight } := by
  unfold setQueue
  rw [if_neg h]
  exact (station_congr rfl).trans (station_onStation_same _ _ _)

theorem setQueue_dlv {d : Nat} (q : List Nat) (s : State) (h : d ≠ 31) : (setQueue d q s).dlv = s.dlv := by
  unfold setQueue
  rw [if_neg h]
  simp

theorem queueOf_station {d : Nat} {s : State} {st : Station} (h : station d s = some st) : queueOf d s = st.queue := by
  have := station_isSome_range h
  unfold queueOf
  rw [if_neg (by change ¬ d = 31; omega), h]

theorem queueOf_broadcast (s : State) : queueOf 31 s = s.dlv.queue := rfl

/-- A record belongs to the head of its queue (R85). -/
theorem headRecord_handle (q : List Nat) (r : Option InFlight) :
    (headRecord InFlight.handle freshInFlight q r).map InFlight.handle = q.head? := by
  cases q with
  | nil => rfl
  | cons h _ =>
    cases r with
    | none => rfl
    | some r =>
      simp only [headRecord]
      split
      · rename_i e; simp [e]
      · rfl

/-! ### The reply queue -/

/-- Deferred replies of one boundary join the tail in one order or the other, and nothing else changes but the count of
choices (R32; log 5). -/
theorem joinEither_replies (a b : Option Frame) (s : State) :
    let one := fun (f : Frame) => ({ frame := f, place := .request } : Reply)
    (joinEither a b s).ntq.replies = s.ntq.replies ++ a.toList.map one ++ b.toList.map one ∨
    (joinEither a b s).ntq.replies = s.ntq.replies ++ b.toList.map one ++ a.toList.map one := by
  intro one
  unfold joinEither
  split
  · simp
  · simp [joinReplies, one]
  · simp [joinReplies, one]
  · split
    · right; simp [joinReplies, one]
    · left; simp [joinReplies, one]

/-- A refusal joins with a refusal place or changes nothing but a counter (R156, R163). -/
theorem refuse_cases (f : Frame) (made dropped : Option GlobalCounter) (s : State) :
    (s.ntq.refusals < 2 ∧ (refuse f made dropped s).ntq =
      { s.ntq with replies := s.ntq.replies ++ [{ frame := f, place := .refusal }], refusals := s.ntq.refusals + 1 }) ∨
    (2 ≤ s.ntq.refusals ∧ (refuse f made dropped s).ntq = s.ntq) := by
  unfold refuse
  split
  · rename_i h
    refine .inl ⟨h, ?_⟩
    cases made <;> rfl
  · rename_i h
    refine .inr ⟨Nat.le_of_not_lt h, ?_⟩
    cases dropped <;> rfl

/-! ### Segments of a message -/

theorem segmentBytes_length (bytes : List Byte) (i : Nat) :
    (segmentBytes bytes i).length = min 8 (bytes.length - 8 * i) := by simp [segmentBytes]

theorem lt_segmentCount {n i : Nat} : i < segmentCount n ↔ 8 * i < n := by unfold segmentCount; omega

end Sys2Proof.Machine
end

