-- ==== Sys2Proof/WellFormed.lean ====
section
/-! DEFINITION. Which commands are well formed: a body a frame can carry, a byte that fits its row, a receive part's
level changes in order. A meaning never rests on these checks; it judges its own operands. -/

namespace Sys2Proof

/-- A request body fits a host frame: 0 to 248 bytes (spec/11, 11.1). -/
def bodyFits (body : List Byte) : Bool := decide (body.length ≤ 248)

/-- The level changes of one receive part: before bit time 152, strictly later one after another, and each the
opposite of the one before it (R136). -/
def edgesFit : List Edge → Bool
  | [] => true
  | [e] => decide (e.time < 152000)
  | e :: f :: rest => decide (e.time < f.time) && (e.rising != f.rising) && edgesFit (f :: rest)

/-- The form of a command that the spec's row allows. -/
def Instr.wellFormed : Instr → Bool
  | .powerOn _ _ | .pinReset _ _ => true
  | .identify _ b | .status _ b | .configure _ b | .readConfig _ b | .counters _ b | .reset _ b
  | .start _ b | .stop _ b | .schedEdit _ b | .schedRead _ b | .schedCommit _ b
  | .enroll _ b | .retire _ b | .stationQuery _ b | .strangers _ b
  | .send _ b | .cancel _ b | .flush _ b | .msgStatus _ b | .fetch _ b | .grant _ b => bodyFits b
  | .unknownRequestKind k _ b => bodyFits b && decide (k = 0x00 ∨ 0x15 < k)
  | .goodFrame _ | .checkError _ | .frameByteTaken _ => true
  | .lengthError b => decide (b < 2 ∨ 250 < b)
  | .huntByteDiscarded b => decide (b ≠ 0xC3)
  | .gapTimeout | .characterError | .breakDetected | .frameSent => true
  | .fullReset | .busReset | .linkReset | .attnPulseExpiry | .listeningExpiry | .carrier => true
  | .slotStart | .transmissionCompleted | .cycleEnd | .stopCompletion => true
  | .echoMismatch c _ _ => decide (c < 136)
  | .upSlotReport es upTo | .admitSlotReport es upTo => edgesFit es && es.all fun e => decide (e.time ≤ upTo)
  | .characterStartEdge _ | .rxdReturnsHigh | .resetnLow _ => true

end Sys2Proof
end

