-- ==== Sys2Proof/Tests/Slice0.lean ====
section
/-! SUPPORT. The model's own tests: well-formedness, the two remainders, the worked examples of the spec one step at a time,
and for every obligation with hypotheses a concrete state that meets them. -/

namespace Sys2Proof.Tests

set_option Elab.async false

open Sys2Proof Sys2Proof.Machine

/-! ### Small states -/

/-- The part after its start-up frame has been sent, with RXD high. -/
def idle : State := { State.reset with ntq.tx := none, hlk.chr := .ready }

/-- One request waits in the inbox. -/
def ask (k t : Byte) (b : List Byte) (s : State) : State := { s with rex.inbox := [⟨k, t, b⟩], rex.openCount := 1 }

/-- The state a command leaves. -/
def after (c : Instr) (s : State) : State :=
  match exec c s with
  | .next t => t
  | .fault _ => s
  | .refused _ => s

/-- The frame a command puts on an idle transmitter. -/
def sends (c : Instr) (s : State) : Option Frame := (after c s).ntq.tx.map TxFrame.frame

/-- A bank with a DOWN and an UP slot of station 1, an ADMIT slot and a broadcast slot. -/
def busBank : Bank :=
  { entries := Vector.ofFn fun i => match i.val with
      | 0 => ⟨.down, 1⟩ | 1 => ⟨.up, 1⟩ | 2 => ⟨.admission, 0⟩ | 3 => ⟨.down, 31⟩ | _ => ⟨.idle, 0⟩,
    length := 8 }

/-- A PRESENT station with message 1 in flight. -/
def busy (r : InFlight) : Station :=
  { newStation .any .both false with presence := .present, queue := [1], inFlight := some r }

/-- Twelve bytes: two segments. -/
def twelve : List Byte := [1, 2, 3, 4, 5, 6, 7, 8, 9, 10, 11, 12]

/-- A run with message 1 in flight at station 1, before slot 1. -/
def running (r : InFlight) : State :=
  { setStation 1 (some (busy r)) idle with
    cye.state := .running, cye.cycle := 40, sbk.active := busBank, sbk.edit := busBank,
    mpl := { free := 47, down := 1, up := 0, handleCounter := 2,
             messages := [{ handle := 1, dest := 1, urgent := false, bytes := twelve, state := .inFlight }] } }

/-- The in-flight record after its first segment has been handed over. -/
def awaitingFirst : InFlight := { freshInFlight 1 with seqSent := some 0, started := true, phase := .awaitingAck }

/-- An UP slot of station 1 whose part is open. -/
def listening (st : Station) : State :=
  { setStation 1 (some st) (running awaitingFirst) with cye.slot := 2, lif.line := .receive .up (.wait []) }

/-- An ADMIT slot whose part is open. -/
def admitting : State := { running (freshInFlight 1) with cye.slot := 3, lif.line := .receive .admission (.wait []) }

/-- DATA of station 1 in cycle 40, first and last, acknowledging sequence 0. -/
def upData : Segment :=
  { kind := .data, address := 1, seq := 0, first := true, last := true, ackValid := true, busy := false, ackSeq := 0,
    echo := 40, payload := [0xAA] }

/-- EMPTY of station 1 in cycle 40, with a BUSY answer. -/
def upBusy : Segment := { upData with kind := .empty, ackValid := false, busy := true, payload := [] }

/-- A JOIN of station 4 with class 2 in cycle 40. -/
def joinFour : Segment := { upData with kind := .join, address := 4, payload := [0x32, 0x00] }

/-- The engine in LISTENING, with START under tag 5. -/
def waiting : State :=
  { idle with cye := { idle.cye with state := .listening, start := some ⟨5, false⟩, deadline := some 1584 },
              lif.line := .watch }

/-- LIF sends the beacon. -/
def sendingBeacon : State := { running (freshInFlight 1) with lif.line := .send (beacon (running (freshInFlight 1))) .lead }

/-- A RESET reply has been sent whole. -/
def due (scope : Scope) : State := { running (freshInFlight 1) with rex.resetInHand := some ⟨scope, true⟩ }

/-- The frame receiver in a state, in a character. -/
def inByte (rx : FrameRx) : State := { idle with hlk := { idle.hlk with rx := rx, gap := .held, chr := .inCharacter } }

theorem canTake_ask (k t : Byte) (b : List Byte) {s : State} (h : s.resetLow = false) (h' : s.rex.resetInHand = none) :
    CanTake ⟨k, t, b⟩ [] (ask k t b s) := ⟨h, h', rfl⟩

/-! ### Well-formedness, one ill-formed command for each check -/

theorem test_illFormed_body : (Instr.send 1 (List.replicate 249 0)).wellFormed = false := by decide +kernel
theorem test_illFormed_unknownKind : (Instr.unknownRequestKind 0x15 1 []).wellFormed = false := by decide
theorem test_illFormed_lengthByte : (Instr.lengthError 2).wellFormed = false := by decide
theorem test_illFormed_huntByte : (Instr.huntByteDiscarded 0xC3).wellFormed = false := by decide
theorem test_illFormed_cell : (Instr.echoMismatch 136 true true).wellFormed = false := by decide
theorem test_illFormed_edgeOrder : (Instr.upSlotReport [⟨5, true⟩, ⟨5, false⟩] 9).wellFormed = false := by decide
theorem test_illFormed_edgeLevels : (Instr.upSlotReport [⟨5, true⟩, ⟨6, true⟩] 9).wellFormed = false := by decide
theorem test_illFormed_edgeLate : (Instr.admitSlotReport [⟨152000, true⟩] 152000).wellFormed = false := by decide
theorem test_illFormed_edgeUnheard : (Instr.admitSlotReport [⟨6, true⟩] 5).wellFormed = false := by decide
theorem test_wellFormed : (Instr.admitSlotReport [⟨0, false⟩, ⟨151999, true⟩] 152000).wellFormed = true := by decide

/-! ### Codes and remainders -/

/-- R132: the check value of the nine bytes "123456789" under polynomial 0x8005, start 0. -/
theorem test_segmentCrc :
    segmentCrc (bitsOfBytes [0x31, 0x32, 0x33, 0x34, 0x35, 0x36, 0x37, 0x38, 0x39]) = 0xFEE8 := by decide +kernel

/-- R154: the check value of the nine bytes "123456789" under polynomial 0x1021, start 0xFFFF. -/
theorem test_frameCheck : frameCheck [0x31, 0x32, 0x33, 0x34, 0x35, 0x36, 0x37, 0x38, 0x39] = 0x29B1 := by decide +kernel

/-- The state of spec/11, 11.9: cycle 40, epoch 5, N = 12, a join of station 9 accepted. -/
def beaconState : State :=
  { idle with cye.cycle := 40, sbk.epoch := 5, sbk.active.length := 12, adm := { result := .accepted, echo := 9 } }

/-- spec/11, 11.9: the header and payload bytes of the beacon. -/
theorem test_beacon_bytes :
    bytesOf 4 (headerBits (beacon beaconState)) = [0x00, 0x18, 0x0C, 0x28] ∧
    (beacon beaconState).payload = [0x28, 0x05, 0x0C, 0x01, 0x09, 0x01] := by decide +kernel

/-- spec/11, 11.9: the OUTCOME notice of message 300, up to its check bytes. -/
theorem test_outcome_bytes : (wireBytes (noticeFrame (.outcome 300 12 .failed .noAck))).take 9 =
    [0xC3, 0x07, 0x45, 0x00, 0x01, 0x2C, 0x0C, 0x01, 0x01] := by decide +kernel

/-- R148: the straps' rates; R2, R3, R133: a slot of the default guard, a cycle of 7 slots, and the phases of an EMPTY. -/
theorem test_times : baud (strapRate true false) = 460800 ∧ slotLength Settings.defaults = 176 ∧
    cycleLength Settings.defaults { Bank.default with length := 6 } = 1232 ∧
    sendPhaseAt 0 4 = some (.cells 0 false) ∧ sendPhaseAt 0 149 = some .lag ∧ sendPhaseAt 0 150 = none := by decide

/-! ### Requests, one step each -/

theorem test_identify : sends (.identify 7 []) (ask 0x01 7 [] idle) =
    some ⟨0x81, 7, [0x00, 0x6B, 0x01, 0x30, 0x01, 30, 60, 48, 64, 32, 8, 16, 4, 8, 23]⟩ := by decide +kernel
theorem test_status : sends (.status 7 []) (ask 0x02 7 [] idle) =
    some ⟨0x82, 7, [0, 0, 0, 0, 0, 0, 8, 0, 48, 0, 0, 0, 1]⟩ := by decide +kernel
theorem test_configure : (after (.configure 7 [3, 8, 8, 16, 7, 3, 8, 1, 255])
    (ask 0x03 7 [3, 8, 8, 16, 7, 3, 8, 1, 255] idle)).rex.config = ⟨3, 8, 8, 16, 7, 3, 8, .pulse, 255⟩ := by
  decide +kernel
theorem test_configure_range : sends (.configure 7 [3, 7, 8, 16, 7, 3, 8, 1, 255])
    (ask 0x03 7 [3, 7, 8, 16, 7, 3, 8, 1, 255] idle) = some ⟨0x83, 7, [0x03]⟩ := by decide +kernel
theorem test_readConfig : sends (.readConfig 7 []) (ask 0x04 7 [] idle) =
    some ⟨0x84, 7, [0x00, 1, 24, 3, 4, 3, 1, 3, 0, 10]⟩ := by decide +kernel
theorem test_start : (after (.start 5 []) (ask 0x05 5 [] idle)).cye = waiting.cye := by decide +kernel
theorem test_stop : (after (.stop 0x21 []) (ask 0x06 0x21 [] (running (freshInFlight 1)))).cye.stop =
    some ⟨0x21, false⟩ := by decide +kernel
theorem test_enroll_created : sends (.enroll 7 [30, 0xFF, 3, 1]) (ask 0x0A 7 [30, 0xFF, 3, 1] idle) =
    some ⟨0x8A, 7, [0x00, 0x00]⟩ := by decide +kernel
theorem test_enroll_badClass : sends (.enroll 7 [30, 0x10, 3, 1]) (ask 0x0A 7 [30, 0x10, 3, 1] idle) =
    some ⟨0x8A, 7, [0x03]⟩ := by decide +kernel
theorem test_retire : (after (.retire 7 [1]) (ask 0x0B 7 [1] (running awaitingFirst))).ntq.notices =
    [.outcome 1 1 .failed .retired] := by decide +kernel
theorem test_stationQuery : sends (.stationQuery 7 [1]) (ask 0x0C 7 [1] (running awaitingFirst)) =
    some ⟨0x8C, 7, [0x00, 0xFF, 3, 0, 2, 0, 0, 0, 0, 0, 0, 1, 1, 0, 1, 0, 0, 0, 1, 1, 0, 0, 0, 0]⟩ := by decide +kernel
theorem test_strangers : sends (.strangers 7 []) (ask 0x0D 7 [] { idle with stt.strangers := [⟨4, 2, .unknown⟩] }) =
    some ⟨0x8D, 7, [0x00, 1, 4, 2, 0]⟩ := by decide +kernel
theorem test_send_length : sends (.send 7 [1, 0]) (ask 0x0E 7 [1, 0] idle) = some ⟨0x8E, 7, [0x02]⟩ := by decide +kernel
theorem test_cancel_tooLate : sends (.cancel 7 [0, 1]) (ask 0x0F 7 [0, 1] (running awaitingFirst)) =
    some ⟨0x8F, 7, [0x0B]⟩ := by decide +kernel
theorem test_flush : sends (.flush 7 [1]) (ask 0x10 7 [1] (running (freshInFlight 1))) = some ⟨0x90, 7, [0x00, 1]⟩ := by
  decide +kernel
theorem test_msgStatus : sends (.msgStatus 7 [0, 1]) (ask 0x11 7 [0, 1] (running awaitingFirst)) =
    some ⟨0x91, 7, [0x00, 1, 0, 12, 1, 0, 0, 1, 0, 1, 0, 0, 1, 0]⟩ := by decide +kernel
theorem test_fetch_empty : sends (.fetch 7 []) (ask 0x12 7 [] idle) = some ⟨0x92, 7, [0x0C, 0]⟩ := by decide +kernel
theorem test_grant : sends (.grant 7 [255]) (ask 0x13 7 [255] { idle with ntq.credits := 2 }) =
    some ⟨0x93, 7, [0x00, 255]⟩ := by decide +kernel
theorem test_unknownKind : sends (.unknownRequestKind 0x45 7 [1]) (ask 0x45 7 [1] idle) = some ⟨0xC5, 7, [0x01]⟩ := by
  decide +kernel

/-! ### The checks of a bank: spec/02, 2.8 -/

/-- The pending bank of spec/02, 2.8, with the owners or kinds the later steps change. -/
def faulty (e3 e9 e11 e14 : Entry) : Bank :=
  { entries := Vector.ofFn fun i => match i.val with
      | 0 => ⟨.down, 3⟩ | 1 => ⟨.up, 3⟩ | 2 => ⟨.down, 7⟩ | 3 => e3 | 4 => ⟨.admission, 0⟩ | 5 => ⟨.down, 31⟩
      | 6 => ⟨.down, 12⟩ | 7 => ⟨.up, 9⟩ | 9 => e9 | 10 => ⟨.down, 9⟩ | 11 => e11 | 14 => e14 | _ => ⟨.idle, 0⟩,
    length := 12 }

theorem test_bank_faults :
    bankFault (faulty ⟨.up, 8⟩ ⟨.admission, 0⟩ ⟨.up, 31⟩ ⟨.down, 5⟩) = some (.lengthRange, 14) ∧
    bankFault (faulty ⟨.up, 8⟩ ⟨.admission, 0⟩ ⟨.up, 31⟩ ⟨.idle, 0⟩) = some (.ownerKind, 11) ∧
    bankFault (faulty ⟨.up, 8⟩ ⟨.admission, 0⟩ ⟨.up, 12⟩ ⟨.idle, 0⟩) = some (.tooManyAdmit, 9) ∧
    bankFault (faulty ⟨.up, 8⟩ ⟨.idle, 0⟩ ⟨.up, 12⟩ ⟨.idle, 0⟩) = some (.unpaired, 2) ∧
    bankFault (faulty ⟨.up, 7⟩ ⟨.idle, 0⟩ ⟨.up, 12⟩ ⟨.idle, 0⟩) = none := by decide +kernel

/-- spec/02, 2.8, steps 7 and 9, at epoch 4. -/
theorem test_commit :
    sends (.schedCommit 7 []) (ask 0x09 7 [] { idle with
      sbk := { idle.sbk with epoch := 4, edited := true, edit := faulty ⟨.up, 8⟩ ⟨.idle, 0⟩ ⟨.up, 12⟩ ⟨.idle, 0⟩ } }) =
      some ⟨0x89, 7, [0x0D, 0x05, 2]⟩ ∧
    sends (.schedCommit 7 []) (ask 0x09 7 [] { idle with
      sbk := { idle.sbk with epoch := 4, edited := true, edit := faulty ⟨.up, 7⟩ ⟨.idle, 0⟩ ⟨.up, 12⟩ ⟨.idle, 0⟩ } }) =
      some ⟨0x89, 7, [0x00, 5]⟩ := by decide +kernel

theorem test_schedEdit : entryAt (after (.schedEdit 7 [11, 1, 0, 2, 12])
    (ask 0x07 7 [11, 1, 0, 2, 12] idle)).sbk.edit 11 = ⟨.up, 12⟩ := by decide +kernel

/-! ### Presence: spec/03, 3.6 -/

/-- Station 1 with a presence, its counts and whether it was heard. -/
def counted (p : Presence) (good miss : Nat) (heard : Bool) : State :=
  setStation 1 (some { newStation .any .both false with presence := p, good := good, miss := miss, heard := heard }) idle

/-- Cycles 10, 12, 15 and 23 of the example: presence, good, miss after the evaluation. -/
theorem test_presence :
    (station 1 (evaluate busBank 1 (counted .absent 0 0 true))).map (fun r => (r.presence, r.good, r.miss)) =
      some (.acquiring, 1, 0) ∧
    (station 1 (evaluate busBank 1 (counted .acquiring 2 0 false))).map (fun r => (r.presence, r.good, r.miss)) =
      some (.acquiring, 0, 1) ∧
    (evaluate busBank 1 (counted .acquiring 2 0 true)).ntq.notices = [.presence 1 .acquiring .present] ∧
    (evaluate busBank 1 (counted .present 0 3 false)).ntq.notices = [.presence 1 .present .absent] := by decide +kernel

/-- The order of the notices of a loss. -/
theorem test_loss_notices : (evaluate busBank 1
    (setStation 1 (some { busy awaitingFirst with miss := 3 }) (running awaitingFirst))).ntq.notices =
    [.presence 1 .present .absent, .outcome 1 1 .failed .stationLost] := by decide +kernel

/-! ### Queues: spec/05, 5.11 -/

theorem test_joinQueue :
    joinQueue false (fun _ => false) 101 [100] = [100, 101] ∧
    joinQueue true (fun _ => false) 102 [100, 101] = [102, 100, 101] ∧
    joinQueue true (fun h => h == 102) 103 [102, 100, 101] = [102, 103, 100, 101] := by decide

/-- R79: 65535 is followed by 1, and a handle in use is passed over. -/
theorem test_handles : nextHandle 65535 = 1 ∧
    freeHandle 33 1 (running (freshInFlight 1)).mpl.messages = 2 := by decide +kernel

theorem test_downSlot : (after .slotStart (running (freshInFlight 1))).lif.line =
    .send { kind := .data, address := 1, seq := 0, first := true, last := false, ackValid := false, busy := false,
            ackSeq := 0, echo := 40, payload := [1, 2, 3, 4, 5, 6, 7, 8] } .lead := by decide +kernel

theorem test_ack_moves_on : (station 1 (takeAnswer 1 (some ⟨true, 0, false⟩) (running awaitingFirst))).map
    (fun r => r.inFlight.map InFlight.index) = some (some 1) := by decide +kernel

/-! ### Uplink and admission -/

/-- spec/06, 6.9: the last segment meets a full inbox. -/
theorem test_inbox_full :
    let s := { listening { busy awaitingFirst with upExpected := 5, lastAccepted := some 4,
                                                   context := some ⟨List.replicate 16 0, 2⟩ } with
               ulr.inbox := List.replicate 16 ⟨11, [1], 49, 0⟩ }
    let t := takeData 1 { upData with seq := 5, first := false } s
    (station 1 t).map (fun r => (r.lastAccepted, r.busyAnswer)) = some (some 4, true) ∧
      globalCount .inboxFullAnswers t = 1 := by decide +kernel

theorem test_upSlot_line : (receivePart (segmentEdges 5000 upData)).cls = .good upData := by decide +kernel
theorem test_late_line : (receivePart (segmentEdges 16000 joinFour)).cls = .late := by decide +kernel
theorem test_silent_line : (receivePart [⟨3, false⟩]).cls = .silent := by decide +kernel

/-- R142: SILENT is settled by the part's closing, and LIF is IDLE. -/
theorem test_upSlotReport : (after (.upSlotReport [] 152000) (listening (busy awaitingFirst))).lif.line = .idle := by
  decide +kernel

/-- R129, R138, R142: heard up to the middle of its header the segment is in BODY, with every cell decoded so far; heard on to its
end it is GOOD, in SETTLED, with every cell. -/
theorem test_upSlot_inPieces :
    let edges := segmentEdges 5000 upData
    let s := after (.upSlotReport (edges.filter fun e => e.time ≤ 40000) 40000)
      (listening (newStation .any .both false))
    let t := after (.upSlotReport (edges.filter fun e => 40000 < e.time) 100000) s
    (match s.lif.line with | .receive .up (.decode _ (.header l d c)) => decodedCells (.header l d c) | _ => []) =
      (segmentCells upData).take 34 ∧
    (match t.lif.line with | .receive .up (.settled r) => (r.cls, r.cells) | _ => (.silent, [])) =
      (.good upData, segmentCells upData) ∧
    (tick t).lif.line = .idle := by decide +kernel

/-- A segment of 136 cells whose preamble begins at 15.99 and whose clock then loses so many thousandths of a bit time. -/
def slow (loss : Nat) : List Edge :=
  (segmentEdges 15990 { upData with payload := List.replicate 8 0 }).map fun e =>
    if 30000 ≤ e.time then { e with time := e.time + loss } else e

/-- R138, R141 and log 18: a last cell that ends exactly at bit time 152 makes the segment whole, a later one an overrun. -/
theorem test_endsAtTheClose : (receivePart (slow 10)).cls = .good { upData with payload := List.replicate 8 0 } ∧
    (receivePart (slow 11)).cls = .collided := by decide +kernel

/-- R67: an unknown station's JOIN. -/
theorem test_join_unknown : (after (.admitSlotReport (segmentEdges 0 joinFour) 152000) admitting).adm = ⟨.refusedUnknown, 4⟩ := by
  decide +kernel

/-! ### The engine -/

theorem test_carrier : sends .carrier waiting = some ⟨0x85, 5, [0x0E]⟩ := by decide +kernel
theorem test_listeningExpiry : (after .listeningExpiry waiting).cye.state = .running := by decide +kernel
theorem test_transmissionCompleted : (after .transmissionCompleted sendingBeacon).lif.line = .idle := by decide +kernel

/-- The first preamble cell is 1, low then high: a high first half is a mismatch. -/
theorem test_echoMismatch : (after (.echoMismatch 0 false true) sendingBeacon).cye.streak = 1 := by decide +kernel

/-- R130, R133: LEAD, then the first preamble cell; R134: its sample is past in the second cell. -/
theorem test_sending :
    let s := tick sendingBeacon
    bde s = true ∧ btx sendingBeacon = true ∧ btx s = false ∧ btx (tick s) = true ∧ btx (tick (tick s)) = true ∧
    (after (.echoMismatch 0 false true) (tick (tick s))).cye.streak = 0 := by decide +kernel

/-- spec/01, 1.12: the streak reaches its limit in a DATA segment. -/
theorem test_busFault : (after (.echoMismatch 0 false true)
    { after .slotStart (running (freshInFlight 1)) with cye.streak := 2 }).ntq.notices = [.busFault 3 0x28] := by
  decide +kernel

theorem test_cycleEnd : (after .cycleEnd { running (freshInFlight 1) with cye.slot := 8 }).cye.cycle = 41 := by
  decide +kernel
theorem test_stopCompletion : sends .stopCompletion
    { running (freshInFlight 1) with cye.state := .halting, cye.stop := some ⟨0x21, false⟩, cye.slot := 8 } =
    some ⟨0x86, 0x21, [0x00]⟩ := by decide +kernel

/-! ### The host link -/

theorem test_frameByteTaken : (after (.frameByteTaken 0xC3) (inByte .hunt)).hlk.rx = .length := by decide +kernel
theorem test_huntByte : globalCount .huntBytesDiscarded (after (.huntByteDiscarded 0xC2) (inByte .hunt)) = 1 := by
  decide +kernel
theorem test_lengthError : globalCount .lengthErrors (after (.lengthError 251) (inByte .length)) = 1 := by decide +kernel
theorem test_goodFrame : (after (.goodFrame 0x34) (inByte (.check 2 [0x01, 0x07] 0x1234 (some 0x12)))).rex.inbox =
    [⟨0x01, 0x07, []⟩] := by decide +kernel
theorem test_checkError : sends (.checkError 0x35) (inByte (.check 2 [0x01, 0x07] 0x1234 (some 0x12))) =
    some ⟨0x7F, 0x07, [0x12, 0x01]⟩ := by decide +kernel
theorem test_gapTimeout : globalCount .gapTimeouts (after .gapTimeout { idle with hlk.gap := .running }) = 1 := by
  decide +kernel
theorem test_characterError : (after .characterError (inByte .length)).hlk.rx = .hunt := by decide +kernel
theorem test_break : (after .breakDetected (inByte .length)).hlk.chr = .waitHigh := by decide +kernel
theorem test_characterStartEdge : (after (.characterStartEdge false) idle).hlk.chr = .inCharacter := by decide +kernel
theorem test_rxdReturnsHigh : (after .rxdReturnsHigh { idle with hlk.chr := .waitHigh }).hlk.chr = .ready := by
  decide +kernel
theorem test_frameSent : (after .frameSent { idle with
    ntq := { idle.ntq with credits := 1, notices := [.restarted 3, .restarted 4], attn := true,
                           tx := some ⟨noticeFrame (.restarted 3), .notice⟩ } }).ntq.tx =
    some ⟨⟨0x44, 0, [4]⟩, .notice⟩ := by decide +kernel
theorem test_attnPulse : (after .attnPulseExpiry { idle with ntq.attn := true, ntq.pulse := some 10 }).ntq.attn = false := by
  decide +kernel

/-! ### Resets -/

theorem test_powerOn : exec (.powerOn false false) idle = .next State.reset := by rfl
theorem test_pinReset : (after (.pinReset true true) idle).hlk.rate = .baud921600 := by decide +kernel
theorem test_resetnLow : (after (.resetnLow 1000) (running (freshInFlight 1))).resetLow = true ∧
    (after (.resetnLow 999) (running (freshInFlight 1))).resetLow = false := by decide +kernel

/-- R148, R158: the marker 0xC3 on TXD, least significant bit first between its start and stop bits; idle is high. -/
theorem test_txd : (List.range 11).map (txdAt State.reset) =
    [false, true, true, false, false, false, false, true, true, true, false] ∧ txdAt idle 0 = true := by decide +kernel
theorem test_fullReset : sends .fullReset (due .full) = some ⟨0x7E, 0, [0x02]⟩ := by decide +kernel
theorem test_busReset : (after .busReset (due .bus)).mpl.free = 48 ∧ sends .busReset (due .bus) = some ⟨0x7E, 0, [0x03]⟩ := by
  decide +kernel
theorem test_linkReset : (after .linkReset (due .link)).cye.state = .running := by decide +kernel
theorem test_reset_request : sends (.reset 7 [2]) (ask 0x15 7 [2] (running (freshInFlight 1))) =
    some ⟨0x95, 7, [0x00, 1]⟩ := by decide +kernel
theorem test_counters : sends (.counters 7 [31, 0]) (ask 0x14 7 [31, 0] idle) = some ⟨0x94, 7, [0x03]⟩ := by
  decide +kernel

/-! ### For every obligation with hypotheses, a state that meets them -/

/-- The requests a test asks under tag 7 with nothing behind them in the inbox. -/
abbrev Asked (k : Byte) (b : List Byte) (s : State) : Prop := CanTake ⟨k, 7, b⟩ [] (ask k 7 b s)

/-- A run with message 1 not yet started. -/
abbrev fresh : State := running (freshInFlight 1)

/-- The pending bank is edited, and passes or fails its checks. -/
def edited (b : Bank) (s : State) : State := { s with sbk := { s.sbk with edited := true, edit := b } }

theorem witness_StepRunsTheFrontCommand :
    { idle with pending := [.carrier, .gapTimeout] }.pending = .carrier :: [.gapTimeout] ∧ idle.pending = [] := by
  decide +kernel

theorem witness_CommandsThatMayNotHappenNow :
    ({ idle with resetLow := true }.resetLow = true ∧ (due .bus).rex.resetInHand.any (·.replySent) = true ∧
      Instr.carrier ≠ .fullReset ∧ Instr.carrier ≠ .busReset ∧ Instr.carrier ≠ .linkReset) ∧ (∀ n, Instr.carrier ≠ .resetnLow n) ∧
    (∀ a b, Instr.carrier ≠ .powerOn a b) ∧ (∀ a b, Instr.carrier ≠ .pinReset a b) ∧
    requestOf (.identify 7 []) = some ⟨0x01, 7, []⟩ ∧
    (∀ rest, ¬ CanTake ⟨0x01, 7, []⟩ rest (ask 0x02 7 [] idle)) := by
  refine ⟨by decide +kernel, (by intro n h; cases h), by decide, by decide, rfl, ?_⟩
  rintro rest ⟨-, -, h⟩
  simp [ask] at h

theorem witness_MalformedRequestsAreRefused :
    requestOf (.send 7 [1]) = some ⟨0x0E, 7, [1]⟩ ∧ (∀ k t b, Instr.send 7 [1] ≠ .unknownRequestKind k t b) ∧
    Asked 0x0E [1] idle ∧ ¬ BodySuits 0x0E [1] ∧ Asked 0x00 [] idle ∧ Asked 0x16 [1] idle ∧ Asked 0xFF [1] idle := by
  refine ⟨rfl, (by intro _ _ _ h; cases h), by decide +kernel, ?_, by decide +kernel, by decide +kernel, by decide +kernel⟩
  intro h
  exact absurd (h.2.2.2.2.2.2.1 rfl) (by decide)

theorem witness_IdentifyAnswersItsFixedValues : Asked 0x01 [] fresh := by decide +kernel
theorem witness_StatusAnswersTheItemsOfOneInstant : Asked 0x02 [] fresh := by decide +kernel

theorem witness_ConfigureTakesAllNineOrNone :
    (Asked 0x03 [0, 64, 1, 1, 0, 0, 1, 0, 1] fresh ∧ fresh.cye.state ≠ .stopped) ∧
    (Asked 0x03 [3, 8, 8, 16, 7, 3, 8, 1, 255] idle ∧ idle.cye.state = .stopped) ∧ Asked 0x04 [] idle := by decide +kernel

theorem witness_CountersReadsAndClearsOneSet :
    Asked 0x14 [31, 1] fresh ∧ Asked 0x14 [0, 2] fresh ∧ Asked 0x14 [0, 1] fresh ∧
    (Asked 0x14 [30, 0] fresh ∧ station 30 (ask 0x14 7 [30, 0] fresh) = none) ∧
    Asked 0x14 [1, 1] fresh ∧ station 1 (ask 0x14 7 [1, 1] fresh) = some (busy (freshInFlight 1)) := by decide +kernel

theorem witness_ResetIsAnsweredFirst :
    Asked 0x15 [1] fresh ∧ Asked 0x15 [2] fresh ∧ Asked 0x15 [3] fresh ∧ Asked 0x15 [0] fresh ∧ Asked 0x15 [4] fresh := by
  decide +kernel

theorem witness_StartAndStopByEngineState :
    (Asked 0x05 [] idle ∧ idle.cye.state = .stopped) ∧ (Asked 0x05 [] waiting ∧ waiting.cye.state = .listening) ∧
    (Asked 0x05 [] fresh ∧ fresh.cye.state = .running) ∧
    (Asked 0x06 [] idle ∧ Asked 0x06 [] waiting ∧ Asked 0x06 [] fresh ∧
      Asked 0x06 [] { fresh with cye.state := .halting }) := by decide +kernel

theorem witness_ListeningEndsInARunOrByCarrier :
    held waiting = false ∧ waiting.cye.state = .listening ∧ idle.cye.state ≠ .listening := by decide +kernel

theorem witness_BeaconsAndSlotsWithoutTransmission :
    (SlotCanStart { fresh with cye.slot := 7 } ∧ (entryAt busBank 7).kind = .idle) ∧
    (SlotCanStart { fresh with cye.slot := 1 } ∧ (entryAt busBank 1).kind = .up) ∧
    (SlotCanStart { fresh with cye.slot := 2 } ∧ (entryAt busBank 2).kind = .admission) := by decide +kernel

theorem witness_TransmissionsEndCleanlyOrByAnEchoMismatch :
    held sendingBeacon = false ∧ sendingBeacon.lif.line = .send (beacon fresh) .lead ∧
    (segmentCells (beacon fresh))[0]? = some true ∧ (segmentCells (beacon fresh))[119]? ≠ none ∧
    (tick (tick sendingBeacon)).lif.line = .send (beacon fresh) (.cells 0 true) ∧
    sendingBeacon.cye.streak + 1 < sendingBeacon.rex.config.faultStreak := by decide +kernel

theorem witness_TheStreakEndsInABusFault :
    let s := { sendingBeacon with cye.streak := 2 }
    held s = false ∧ s.lif.line = .send (beacon fresh) .lead ∧ sampleAhead .lead 0 false = true ∧
    (segmentCells (beacon fresh))[0]? = some true ∧
    s.cye.streak + 1 = s.rex.config.faultStreak := by decide +kernel

theorem witness_TheCycleEndOrdersItsWork :
    let s := { fresh with cye.slot := 8, sbk.commit := some ⟨9, false⟩ }
    held s = false ∧ s.cye.state = .running ∧ lineFree s = true ∧ s.cye.slot = s.sbk.active.length := by decide +kernel

theorem witness_TheStopCompletionLeavesTheRun :
    let s := { fresh with cye.state := .halting, cye.stop := some ⟨7, false⟩, cye.slot := 8, sbk.commit := some ⟨9, false⟩ }
    held s = false ∧ s.cye.state = .halting ∧ lineFree s = true ∧ s.cye.slot = s.sbk.active.length := by decide +kernel

theorem witness_SchedEditWritesThePendingBank :
    (Asked 0x07 [59, 1, 60, 1, 31] { fresh with sbk.commit := some ⟨9, false⟩ }) ∧
    (Asked 0x07 [59, 1, 60, 1, 31] fresh ∧ fresh.sbk.commit = none ∧ (59 : Byte) ≤ 59 ∧ (60 : Byte) ≤ 60) ∧
    (Asked 0x07 [60, 1, 0, 1, 31] fresh ∧ ¬ (60 : Byte) ≤ 59) ∧ Asked 0x07 [0, 0, 3] fresh ∧ Asked 0x07 [0, 0, 4] fresh := by
  decide +kernel

theorem witness_SchedReadAnswersABank : Asked 0x08 [1, 59, 1] fresh ∧ Asked 0x08 [1, 59, 2] fresh := by decide +kernel

theorem witness_SchedCommitByCase :
    Asked 0x09 [] { fresh with sbk.commit := some ⟨9, false⟩ } ∧ (Asked 0x09 [] fresh ∧ fresh.sbk.edited = false) ∧
    (let s := edited (faulty ⟨.up, 8⟩ ⟨.idle, 0⟩ ⟨.up, 12⟩ ⟨.idle, 0⟩) fresh
     Asked 0x09 [] s ∧ s.sbk.edited = true ∧ s.sbk.commit = none ∧ bankFault s.sbk.edit = some (.unpaired, 2)) ∧
    (let s := edited busBank idle
     Asked 0x09 [] s ∧ bankFault s.sbk.edit = none ∧ s.cye.state = .stopped) ∧
    (let s := edited busBank fresh
     Asked 0x09 [] s ∧ bankFault s.sbk.edit = none ∧ s.cye.state ≠ .stopped) := by decide +kernel

theorem witness_BankChecksInTheirOrder :
    (faulty ⟨.up, 8⟩ ⟨.admission, 0⟩ ⟨.up, 31⟩ ⟨.down, 5⟩).length ≤ 60 ∧
    ∀ i < 60, (entryAt (faulty ⟨.up, 8⟩ ⟨.admission, 0⟩ ⟨.up, 31⟩ ⟨.down, 5⟩) i).owner ≤ 31 := by decide +kernel

theorem witness_ASwapRewindsWhatLosesItsSlots :
    let s := { fresh with sbk.commit := some ⟨9, false⟩ }
    (0 < s.sbk.edit.length ∧ entryAt s.sbk.edit 0 = { kind := .down, owner := 1 }) ∧
    (∀ i < s.sbk.edit.length, entryAt s.sbk.edit i ≠ { kind := .down, owner := 2 }) ∧
    entryAt s.sbk.edit 3 = { kind := .down, owner := 31 } ∧
    (∀ i < idle.sbk.edit.length, entryAt idle.sbk.edit i ≠ { kind := .down, owner := 31 }) ∧
    s.sbk.commit ≠ none ∧ (swapPending s).sbk.epoch = fresh.sbk.epoch + 1 ∧ fresh.sbk.commit = none ∧
    swapPending fresh = fresh := by decide +kernel

theorem witness_EnrollCreatesOrUpdates :
    Asked 0x0A [31, 0xFF, 3, 1] fresh ∧ (Asked 0x0A [30, 0x0F, 3, 1] fresh ∧ station 30 fresh = none) ∧
    (Asked 0x0A [1, 0xFF, 0, 0] fresh ∧ station 1 fresh = some (busy (freshInFlight 1))) := by decide +kernel

/-! The queues and the invariants of a run -/

theorem station_running {r : InFlight} {a : Nat} {st : Station} (h : station a (running r) = some st) :
    a = 1 ∧ st = busy r := by
  have ha := station_isSome_range h
  have hr : station a (running r) = station a (setStation 1 (some (busy r)) idle) := station_congr rfl
  rw [hr] at h
  by_cases h1 : a = 1
  · subst h1
    rw [station_setStation_same (by decide)] at h
    exact ⟨rfl, by simpa using h.symm⟩
  · rw [station_setStation_other h1] at h
    have : ∀ a < 31, station a idle = none := by decide +kernel
    rw [this a (by omega)] at h
    cases h

theorem station_running_one (r : InFlight) : station 1 (running r) = some (busy r) :=
  (station_congr rfl).trans (station_setStation_same (s := idle) (by decide))

theorem queueOf_running (r : InFlight) (d : Nat) : queueOf d (running r) = if d = 1 then [1] else [] := by
  unfold queueOf
  split
  · rename_i h; subst h; rfl
  · split
    · rename_i st h
      obtain ⟨rfl, rfl⟩ := station_running h
      rfl
    · rename_i h
      by_cases hd : d = 1
      · subst hd; rw [station_running_one] at h; cases h
      · simp [hd]

/-- The queues of a run are in order, for both of the records used here. -/
theorem queueInv_running {r : InFlight} (h : r = freshInFlight 1 ∨ r = awaitingFirst) : QueueInv (running r) := by
  have hr : r.handle = 1 ∧ (r.started = false → r = freshInFlight r.handle) ∧ (r.phase = .awaitingAck → r.seqSent.isSome) ∧
      r.busy < 16 ∧ r.index < 2 := by rcases h with rfl | rfl <;> decide
  refine ⟨by simp [running], by simp [running], ?_, ?_, ?_, rfl, ?_⟩
  · intro m hm
    have : m = { handle := 1, dest := 1, urgent := false, bytes := twelve, state := .inFlight } := by simpa [running] using hm
    subst this
    simp [queueOf_running, twelve]
  · intro d
    refine ⟨?_, ?_, ?_⟩ <;> rw [queueOf_running] <;> split <;> simp_all [running]
  · intro a st hs
    obtain ⟨rfl, rfl⟩ := station_running hs
    refine ⟨by simp [busy, newStation, hr.1], ?_⟩
    intro q hq
    obtain rfl : r = q := by simpa [busy, newStation] using hq
    refine ⟨hr.2.1, hr.2.2.1, hr.2.2.2.1, ?_⟩
    intro m hm _ _
    have : m.bytes = twelve := by
      obtain rfl : m = _ := by simpa [running] using hm
      rfl
    rw [this]; exact hr.2.2.2.2
  · intro r hr
    cases hr

/-- A run that waits for its first slot start. -/
def stepping : State := { fresh with pending := [.slotStart] }

theorem witness_StepsKeepThePoolAndTheQueues :
    PoolInv stepping ∧ QueueInv stepping ∧ step stepping = .next (after .slotStart fresh) :=
  ⟨by decide +kernel, queueInv_running (.inl rfl), by rfl⟩

theorem witness_StepsKeepTheOutboundSide :
    NoticeInv stepping ∧ ArbiterInv stepping ∧ AttnInv stepping ∧ step stepping = .next (after .slotStart fresh) := by
  refine ⟨⟨by decide, (by intro k h; cases h), by decide, (by intro f h; cases h), (by intro h; cases h)⟩, ?_, ?_, by rfl⟩
  · intro _ _; decide +kernel
  · constructor <;> intro h
    · decide +kernel
    · cases h

theorem engineInv_stepping : EngineInv stepping := by
  refine ⟨by unfold SettingsInRange; decide, by decide +kernel, by decide +kernel, by decide +kernel, by decide +kernel,
    ?_, by decide +kernel⟩
  intro seg k h hl; cases hl

theorem witness_StepsKeepTheEngineAndTheBanks :
    EngineInv stepping ∧ BankInv stepping ∧ step stepping = .next (after .slotStart fresh) :=
  ⟨engineInv_stepping, by unfold BankInv; decide +kernel, by rfl⟩

theorem witness_StepsAccountForOpenRequests :
    EngineInv stepping ∧ OpenInv stepping ∧ step stepping = .next (after .slotStart fresh) :=
  ⟨engineInv_stepping, by unfold OpenInv; decide +kernel, by rfl⟩

theorem witness_StepsKeepTheStations :
    EngineInv stepping ∧ QueueInv stepping ∧ StationInv stepping ∧ StrangerInv stepping ∧
    step stepping = .next (after .slotStart fresh) := by
  refine ⟨engineInv_stepping, queueInv_running (.inl rfl), ⟨?_, ?_⟩, ⟨by decide, by decide⟩, by rfl⟩
  · intro a st h
    obtain ⟨rfl, rfl⟩ := station_running (r := freshInFlight 1) h
    refine ⟨by decide, by decide, fun _ => rfl, ?_, ?_, ?_, ?_⟩
    · intro h; cases h
    · intro r hr
      obtain rfl : freshInFlight 1 = r := by simpa [busy, newStation] using hr
      decide
    · intro c hc; cases hc
    · intro q hq; cases hq
  · intro r hr; cases hr

theorem witness_RetireEndsTheQueueAndTheRecord :
    Asked 0x0B [0] fresh ∧ Asked 0x0B [31] fresh ∧ (Asked 0x0B [30] fresh ∧ station 30 fresh = none) ∧
    Asked 0x0B [1] fresh ∧ QueueInv (ask 0x0B 7 [1] fresh) ∧ station 1 (ask 0x0B 7 [1] fresh) = some (busy (freshInFlight 1)) :=
  ⟨by decide +kernel, by decide +kernel, by decide +kernel, by decide +kernel, queueInv_running (.inl rfl),
    by decide +kernel⟩

theorem witness_StationsAndStrangersAreRead :
    Asked 0x0C [31] fresh ∧ (Asked 0x0C [30] fresh ∧ station 30 fresh = none) ∧
    (Asked 0x0C [1] fresh ∧ station 1 fresh = some (busy (freshInFlight 1))) ∧ Asked 0x0D [] fresh := by decide +kernel

theorem witness_PresenceIsEvaluatedPerStation :
    station 30 fresh = none ∧ station 1 (counted .absent 0 0 true) =
      some { newStation .any .both false with presence := .absent, heard := true } ∧
    HasUp busBank 1 ∧ ¬ HasUp Bank.default 1 ∧
    min (1 + 1) idle.rex.config.lockIn < idle.rex.config.lockIn ∧ min (2 + 1) idle.rex.config.lockIn = idle.rex.config.lockIn ∧
    min (2 + 1) idle.rex.config.lockOut < idle.rex.config.lockOut ∧
    min (3 + 1) idle.rex.config.lockOut = idle.rex.config.lockOut := by unfold HasUp; decide +kernel

theorem witness_ALossEndsWhatTheStationHeld :
    QueueInv (running awaitingFirst) ∧ station 1 (running awaitingFirst) = some (busy awaitingFirst) ∧ HasUp busBank 1 ∧
    (busy awaitingFirst).heard = false ∧ (busy awaitingFirst).presence = .present ∧
    (let s := { running awaitingFirst with rex.config.lockOut := 1 }
     QueueInv s ∧ station 1 s = some (busy awaitingFirst) ∧
     min ((busy awaitingFirst).miss + 1) s.rex.config.lockOut = s.rex.config.lockOut) := by
  refine ⟨queueInv_running (.inr rfl), by decide +kernel, by unfold HasUp; decide +kernel, rfl, rfl,
    queueInv_running (.inr rfl), by decide +kernel, by decide +kernel⟩

/-- A part heard to its close settles, one heard too early does not, and a settled one is not open. -/
theorem witness_hear (edges : List Edge) :
    partOpen (.wait []) = true ∧ hear edges 152000 (.wait []) = .settled (receivePart edges) ∧
    partOpen (hear [] 1000 (.wait [])) = true ∧ partOpen (.settled (receivePart edges)) = false :=
  ⟨rfl, hear_closing edges, by decide, rfl⟩

theorem witness_AdmitSlotsWithoutAJoin :
    held admitting = false ∧ admitting.lif.line = .receive .admission (.wait []) ∧ (receivePart []).cls = .silent ∧
    (receivePart (segmentEdges 16000 joinFour)).cls = .late ∧
    (receivePart ((segmentEdges 0 joinFour).take 20)).cls = .collided ∧
    hear (segmentEdges 0 upData) 152000 (.wait []) = .settled (receivePart (segmentEdges 0 upData)) ∧
    (receivePart (segmentEdges 0 upData)).cls = .good upData ∧ upData.kind ≠ .join := by decide +kernel

/-- The receive part of a JOIN of address 4. -/
abbrev joinEdges : List Edge := segmentEdges 0 joinFour

/-- Station 4 in a record of a class, with a presence, in an open ADMIT slot. -/
def joiner (c : StationClass) (p : Presence) : State :=
  setStation 4 (some { newStation c .both false with presence := p }) admitting

theorem witness_AValidJoinIsResolved :
    held admitting = false ∧ admitting.lif.line = .receive .admission (.wait []) ∧ partOpen (.wait []) = true ∧
    hear joinEdges 152000 (.wait []) = .settled (receivePart joinEdges) ∧ (receivePart joinEdges).cls = .good joinFour ∧ joinFour.kind = .join ∧
    joinFour.address ≠ 0 ∧ joinFour.address ≠ 31 ∧ joinFour.payload = [0x32, 0x00] ∧ joinFour.echo = admitting.cye.cycle ∧
    StrangerInv admitting ∧ station 4 admitting = none ∧
    ((joiner (.is 3) .absent).lif.line = .receive .admission (.wait []) ∧ StrangerInv (joiner (.is 3) .absent) ∧
      station 4 (joiner (.is 3) .absent) = some (newStation (.is 3) .both false)) ∧
    (∀ p ∈ [Presence.absent, .acquiring, .present],
      station 4 (joiner (.is 2) p) = some { newStation (.is 2) .both false with presence := p }) := by
  unfold StrangerInv; decide +kernel

theorem witness_SendIsRefusedInItsOrder :
    Asked 0x0E [1, 0] fresh ∧ Asked 0x0E [32, 0, 5] fresh ∧ Asked 0x0E [30, 1, 5] fresh ∧ Asked 0x0E [1, 0, 5] fresh ∧
    Asked 0x0E [31, 0, 5] { fresh with mpl.free := 0 } := by decide +kernel

theorem witness_AnAcceptedSendIsQueued :
    let s := ask 0x0E 7 [1, 1, 5] fresh
    CanTake ⟨0x0E, 7, [1, 1, 5]⟩ [] s ∧ PoolInv s ∧ QueueInv s ∧ SendFits 1 1 [5] s ∧
    CanTake ⟨0x0E, 7, [31, 0, 5]⟩ [] (ask 0x0E 7 [31, 0, 5] fresh) ∧ QueueInv (ask 0x0E 7 [31, 0, 5] fresh) ∧
    SendFits 31 0 [5] (ask 0x0E 7 [31, 0, 5] fresh) :=
  ⟨by decide +kernel, by decide +kernel, queueInv_running (.inl rfl),
    ⟨by decide, by decide, fun _ => ⟨busy (freshInFlight 1), by decide +kernel, .inl rfl⟩, by decide +kernel,
      by decide +kernel, by decide +kernel⟩,
    by decide +kernel, queueInv_running (.inl rfl),
    ⟨by decide, by decide, fun h => absurd rfl h, by decide +kernel, by decide +kernel, by decide +kernel⟩⟩

theorem witness_AMessageEndsWhole :
    QueueInv fresh ∧ ({ handle := 1, dest := 1, urgent := false, bytes := twelve, state := .inFlight } : Message) ∈
      fresh.mpl.messages := ⟨queueInv_running (.inl rfl), by decide +kernel⟩

theorem witness_CancelAndFlushSpareAStartedMessage :
    (Asked 0x0F [1, 0] fresh ∧ ∀ m ∈ fresh.mpl.messages, m.handle ≠ 256) ∧
    (Asked 0x0F [0, 1] (running awaitingFirst) ∧ QueueInv (running awaitingFirst) ∧
      startedHandle 1 (running awaitingFirst) = some 1) ∧
    (Asked 0x0F [0, 1] fresh ∧ QueueInv fresh ∧ startedHandle 1 fresh ≠ some 1) ∧
    Asked 0x10 [0] fresh ∧ Asked 0x10 [32] fresh ∧ (Asked 0x10 [30] fresh ∧ station 30 fresh = none) ∧
    (Asked 0x10 [1] fresh ∧ (station 1 fresh).isSome) :=
  ⟨by decide +kernel, ⟨by decide +kernel, queueInv_running (.inr rfl), by decide +kernel⟩,
    ⟨by decide +kernel, queueInv_running (.inl rfl), by decide +kernel⟩, by decide +kernel, by decide +kernel,
    by decide +kernel, by decide +kernel⟩

/-- A run with a message queued for broadcast, its record given, before slot 4. -/
def broadcasting (r : BroadcastInFlight) (n : Nat) : State :=
  { fresh with cye.slot := 3, dlv := { queue := [2], inFlight := some r, next := 6 },
               mpl.messages := [{ handle := 2, dest := 31, urgent := false, bytes := List.replicate n 5, state := .inFlight }] }

theorem witness_MsgStatusAnswersTheDescriptor :
    (Asked 0x11 [0, 2] fresh ∧ ∀ m ∈ fresh.mpl.messages, m.handle ≠ 2) ∧
    (Asked 0x11 [0, 1] fresh ∧ station 1 fresh = some (busy (freshInFlight 1)) ∧
      fresh.mpl.messages.find? (fun m => m.handle = 1) =
        some { handle := 1, dest := 1, urgent := false, bytes := twelve, state := .inFlight }) ∧
    (Asked 0x11 [0, 2] (broadcasting (freshBroadcast 2) 3) ∧
      ((broadcasting (freshBroadcast 2) 3).mpl.messages.find? (fun m => m.handle = 2)).map Message.dest = some 31) := by
  decide +kernel

theorem witness_TheSegmentsMakeUpTheMessage : twelve ≠ [] ∧ segmentCount 64 = 8 ∧ segmentCount 1 = 1 := by decide

theorem witness_StationDownSlots :
    SlotCanStart fresh ∧ entryAt fresh.sbk.active fresh.cye.slot = { kind := .down, owner := 1 } ∧
    station 1 fresh = some (busy (freshInFlight 1)) ∧ (freshInFlight 1).phase = .ready ∧
    (SlotCanStart (running awaitingFirst) ∧ station 1 (running awaitingFirst) = some (busy awaitingFirst)) ∧
    (let r := { awaitingFirst with phase := .ready }
     SlotCanStart (running r) ∧ station 1 (running r) = some (busy r) ∧ r.seqSent = some 0) ∧
    (let s := setStation 1 none fresh
     SlotCanStart s ∧ station 1 s = none) := by decide +kernel

theorem witness_BroadcastDownSlots :
    (SlotCanStart { fresh with cye.slot := 3 } ∧ entryAt busBank 3 = { kind := .down, owner := 31 } ∧
      fresh.dlv.inFlight = none) ∧
    (let s := broadcasting (freshBroadcast 2) 9
     SlotCanStart s ∧ s.dlv.inFlight = some (freshBroadcast 2) ∧ (freshBroadcast 2).sends ≠ s.rex.config.repeats) ∧
    (let r := { freshBroadcast 2 with sends := 1, seqSent := some 6, started := true }
     SlotCanStart (broadcasting r 9) ∧ r.sends = (broadcasting r 9).rex.config.repeats ∧ r.index + 1 ≠ segmentCount 9 ∧
     r.index + 1 = segmentCount 8) := by decide +kernel

theorem witness_OutstandingSegmentsAreJudged :
    (∀ st r, station 1 fresh = some st → st.inFlight = some r → r.phase = .ready) ∧
    station 1 (running awaitingFirst) = some (busy awaitingFirst) ∧ awaitingFirst.phase = .awaitingAck ∧
    ((running awaitingFirst).mpl.messages.find? fun m => m.handle = awaitingFirst.handle).isSome ∧
    awaitingFirst.index + 1 ≠ segmentCount 12 ∧ awaitingFirst.index + 1 = segmentCount 8 ∧ awaitingFirst.busy ≠ 15 ∧
    awaitingFirst.retries < (running awaitingFirst).rex.config.retryLimit := by
  refine ⟨?_, by decide +kernel⟩
  intro st r h hr
  obtain ⟨-, rfl⟩ := station_running (r := freshInFlight 1) h
  obtain rfl : freshInFlight 1 = r := by simpa [busy, newStation] using hr
  rfl

theorem witness_UpSlotsWithoutACurrentSegment :
    let s := listening (busy awaitingFirst)
    held s = false ∧ s.lif.line = .receive .up (.wait []) ∧ (entryAt s.sbk.active (s.cye.slot - 1)).owner = 1 ∧
    station 1 s = some (busy awaitingFirst) ∧ station 1 (setStation 1 none s) = none ∧ (receivePart []).cls = .silent ∧
    hear (segmentEdges 0 upData) 152000 (.wait []) = .settled (receivePart (segmentEdges 0 upData)) ∧
    (receivePart (segmentEdges 0 upData)).cls = .good upData ∧
    (receivePart (segmentEdges 0 joinFour)).cls = .good joinFour ∧ joinFour.address.toNat ≠ 1 ∧
    (receivePart (segmentEdges 15999 { upData with echo := 39 })).cls = .good { upData with echo := 39 } := by decide +kernel

theorem witness_ACurrentSegmentIsJudged :
    let s := listening (busy awaitingFirst)
    held s = false ∧ s.lif.line = .receive .up (.wait []) ∧ station 1 s = some (busy awaitingFirst) ∧
    hear (segmentEdges 0 upData) 152000 (.wait []) = .settled (receivePart (segmentEdges 0 upData)) ∧
    (receivePart (segmentEdges 0 upData)).cls = .good upData ∧ upData.address.toNat = 1 ∧ upData.echo = s.cye.cycle ∧
    upData.kind = .data ∧ (busy awaitingFirst).presence = .present ∧
    (receivePart (segmentEdges 0 upBusy)).cls = .good upBusy ∧ upBusy.kind = .empty ∧
    station 1 (listening (busy (freshInFlight 1))) = some (busy (freshInFlight 1)) ∧
    station 1 (listening (newStation .any .both false)) = some (newStation .any .both false) := by decide +kernel

/-- The fourth clause of that statement, on one state whose queues are in order. -/
theorem witness_ACurrentSegmentIsJudged_awaiting :
    let s := { running awaitingFirst with cye.slot := 2, lif.line := .receive .up (.wait []) }
    QueueInv s ∧ held s = false ∧ s.lif.line = .receive .up (.wait []) ∧
    (entryAt s.sbk.active (s.cye.slot - 1)).owner = 1 ∧ station 1 s = some (busy awaitingFirst) ∧
    hear (segmentEdges 0 upData) 152000 (.wait []) = .settled (receivePart (segmentEdges 0 upData)) ∧
    (receivePart (segmentEdges 0 upData)).cls = .good upData ∧ upData.address.toNat = 1 ∧ upData.echo = s.cye.cycle ∧
    upData.kind = .data ∧ (busy awaitingFirst).presence = .present ∧
    (busy awaitingFirst).inFlight = some awaitingFirst ∧ awaitingFirst.phase = .awaitingAck :=
  ⟨queueInv_running (.inr rfl), by decide +kernel⟩

theorem witness_DataIsTakenInSequence :
    let st := { busy awaitingFirst with upExpected := 5, lastAccepted := some 4 }
    station 1 (listening st) = some st ∧ (4 : Seq) ≠ st.upExpected ∧ st.lastAccepted = some 4 ∧
    st.lastAccepted ≠ some (6 : Seq) ∧ st.context = none ∧
    (let full := { st with context := some ⟨List.replicate 60 0, 8⟩ }
     station 1 (listening full) = some full) := by decide +kernel

theorem witness_FetchTakesTheOldest :
    Asked 0x12 [] fresh ∧ Asked 0x12 [0] fresh ∧ Asked 0x12 [31] fresh ∧
    (let s := { fresh with ulr.inbox := [⟨2, [1], 3, 0⟩, ⟨30, [1], 3, 1⟩, ⟨30, [2], 3, 2⟩] }
     Asked 0x12 [30] s ∧ s.ulr.inbox = [⟨2, [1], 3, 0⟩] ++ ⟨30, [1], 3, 1⟩ :: [⟨30, [2], 3, 2⟩]) := by decide +kernel

theorem witness_ASegmentOnTheLineIsReceived :
    upData.payload.length ≤ 8 ∧ 15999 < 16000 ∧ 16000 ≤ 148499 ∧ 148499 + 3500 < 152000 ∧
    (79 < 72 + 8 * upData.payload.length ∧ 15999 + 1000 * 79 + 125 ≤ 95124 ∧ 95124 < 15999 + 1000 * 79 + 1000 ∧
      partOpen (hear (segmentEdges 15999 upData) 95124 (.wait [])) = true) ∧
    (receivePart (segmentEdges 15999 upData)).cls = .good upData ∧
    (receivePart (segmentEdges 148499 upData)).cls = .late := by decide +kernel

/-- A station 8 % fast, and one 8 % slow, each with its preamble at the last time that suits it (R136, R138). -/
theorem witness_ASegmentAtAnotherRate :
    (16039 + 460 < 16500 ∧ 16039 + 2 * 460 * (72 + 8 * upData.payload.length) + 1500 < 152000 + 3 * 460) ∧
    (15959 + 540 < 16500 ∧ 15959 + 2 * 540 * (72 + 8 * upData.payload.length) + 1500 < 152000 + 3 * 540) ∧
    (receivePart (cellEdges 460 16039 (segmentCells upData))).cls = .good upData ∧
    (receivePart (cellEdges 540 15959 (segmentCells upData))).cls = .good upData := by decide +kernel

/-- A header of length 0 whose spare bits are 1, before its own CRC and before another; a header of kind 7, one of length 9. -/
theorem witness_HeadersAndCrcs :
    let sent := fun (cells : List Bool) => (receivePart (cellEdges 500 15999 (preambleCells ++ delimiterCells ++ cells))).cls
    let spare := ((List.replicate 32 false).set 15 true).set 23 true
    let kind7 := [true, true, true] ++ List.replicate 29 false
    let length9 := ((List.replicate 32 false).set 19 true).set 22 true
    (spare.length = 32 ∧ spare[0]? = some false ∧ (spare.drop 19).take 4 = [false, false, false, false]) ∧
    sent (spare ++ bitsOf (segmentCrc spare)) =
      .good ⟨.beacon, 0, 0, false, false, false, false, 0, 0, []⟩ ∧
    sent (spare ++ bitsOf (segmentCrc spare ^^^ 1)) = .crcBad ∧
    (kind7.length = 32 ∧ kind7[0]? = some true ∧ sent kind7 = .malformed) ∧
    (length9.length = 32 ∧ length9[19]? = some true ∧ some true ∈ [length9[20]?, length9[21]?, length9[22]?] ∧
      sent length9 = .malformed) := by decide +kernel

/-- Three level changes a bit time apart are no lock run; with a fourth, the first of them at 16.5, they are one and LATE. -/
theorem witness_NoLockAndLate :
    let at' := fun (n : Nat) => ({ time := 16500 + 1250 * n, rising := true } : Edge)
    NoLockRun ([] ++ [at' 0, at' 1, at' 2]) ∧ IsLockRun (at' 0) (at' 1) (at' 2) (at' 3) ∧
    (receivePart [at' 0, at' 1, at' 2]).cls = .silent ∧ (receivePart [at' 0, at' 1, at' 2, at' 3]).cls = .late := by
  refine ⟨?_, by unfold IsLockRun; decide, by decide +kernel, by decide +kernel⟩
  intro before a b c d after h
  have := congrArg List.length h
  simp at this
  omega

/-- An endless preamble; two preamble pairs too many, with a payload that ends in time and one that does not; a segment broken
off after four cells and one before its last; a level change more, in a cell and at two boundaries (R138, R139, R141). -/
theorem witness_CollidedParts :
    let sent := fun (cells : List Bool) => receivePart (cellEdges 500 15999 cells)
    let long := { upData with payload := List.replicate 8 0xA5 }
    let more := (List.replicate 2 [true, false]).flatten
    let extra := fun (u : Nat) =>
      let clean := segmentEdges 15999 upData
      (receivePart (clean.filter (fun e => e.time < u) ++ { time := u, rising := true } :: clean.filter fun e => u ≤ e.time)).cls
    ((∀ i ≤ 20, ((true :: (!true) :: true :: (!true) :: (List.replicate 12 [true, false]).flatten).drop i).take 8 ≠
        delimiterCells) ∧
      (sent ((List.replicate 14 [true, false]).flatten)).cls = .collided) ∧
    (sent (more ++ segmentCells upData)).cls = .good upData ∧
    (152000 < 15999 + 1000 * (72 + 8 * long.payload.length + 2 * 2) ∧ (sent (more ++ segmentCells long)).cls = .collided ∧
      (sent (more ++ segmentCells long)).atClose = true) ∧
    (sent ((segmentCells upData).take 4)).cls = .collided ∧
    (sent ((segmentCells upData).take (71 + 8 * upData.payload.length))).cls = .collided ∧
    extra (15999 + 4126) = .collided ∧ extra (15999 + 3876) = .good upData ∧
    ((segmentCells upData)[18]? = (segmentCells upData)[19]? ∧ extra (15999 + 19124) = .collided) := by decide +kernel

theorem witness_BytesBuildAFrame :
    held (inByte .hunt) = false ∧ (inByte .hunt).hlk.chr = .inCharacter ∧ (inByte .length).hlk.rx = .length ∧
    (inByte (.body 250 [1] 0)).hlk.rx = .body 250 [1] 0 ∧ (inByte (.check 2 [1, 7] 0 none)).hlk.rx = .check 2 [1, 7] 0 none := by
  decide +kernel

theorem witness_TheSecondCheckByteCompletesAFrame :
    let s := inByte (.check 2 [1, 7] 0x1234 (some 0x12))
    held s = false ∧ s.hlk.chr = .inCharacter ∧ s.hlk.rx = .check 2 (1 :: 7 :: []) 0x1234 (some 0x12) ∧
    (0x12 : Byte) ++ (0x34 : Byte) = (0x1234 : Half) ∧ (0x12 : Byte) ++ (0x35 : Byte) ≠ (0x1234 : Half) ∧
    s.rex.inbox.length < 4 ∧ s.rex.openCount < 8 ∧ s.ntq.refusals < 2 ∧
    8 ≤ { s with rex.openCount := 8 }.rex.openCount ∧ 2 ≤ { s with ntq.refusals := 2 }.ntq.refusals := by decide +kernel

theorem witness_CharactersAndTheirErrors :
    held idle = false ∧ idle.hlk.chr = .ready ∧ (inByte .length).hlk.chr = .inCharacter ∧
    { idle with hlk.chr := .waitHigh }.hlk.chr = .waitHigh ∧ { idle with hlk.gap := .running }.hlk.gap = .running := by
  decide +kernel

theorem witness_AFrameOnTheLinkIsReceived :
    (List.replicate 248 (7 : Byte)).length ≤ 248 ∧ held idle = false ∧ idle.hlk.rx = .hunt ∧ idle.hlk.chr = .ready ∧
    idle.hlk.gap = .stopped ∧ idle.rex.inbox.length < 4 ∧ idle.rex.openCount < 8 := by decide +kernel

theorem witness_GrantAddsCredits : Asked 0x13 [0] fresh ∧ Asked 0x13 [255] fresh := by decide +kernel

theorem witness_NoticesJoinOrAreDropped :
    (idle.ntq.marker = none ∧ idle.ntq.notices = []) ∧
    (let s := { idle with ntq.notices := List.replicate 22 (.restarted 3) }
     s.ntq.notices ≠ [] ∧ s.ntq.notices.length < 23) ∧
    23 ≤ { idle with ntq.notices := List.replicate 23 (.restarted 3) }.ntq.notices.length ∧
    StationCounter.gains ≠ .losses ∧
    { idle with ntq.marker := some 255 }.ntq.marker = some 255 ∧ GlobalCounter.breaks ≠ .gapTimeouts := by decide +kernel

theorem witness_TheArbiterChooses :
    State.reset.ntq.tx ≠ none ∧ (idle.ntq.tx = none ∧ held idle = false ∧ idle.ntq.startUp = none ∧ idle.ntq.replies = []) ∧
    { idle with ntq.startUp := some .bus }.ntq.startUp = some .bus ∧
    (let s := { idle with ntq.credits := 1, ntq.notices := [.restarted 3] }
     s.ntq.credits ≠ 0 ∧ s.ntq.notices = .restarted 3 :: []) ∧
    (let s := { idle with ntq.credits := 1, ntq.marker := some 2 }
     s.ntq.credits ≠ 0 ∧ s.ntq.notices = [] ∧ s.ntq.marker = some 2) := by decide +kernel

theorem witness_PinsFollowTheState :
    sendingBeacon.lif.line = .send (beacon fresh) .lead ∧
    (tick sendingBeacon).lif.line = .send (beacon fresh) (.cells 0 false) ∧
    (segmentCells (beacon fresh))[0]? = some true ∧
    (71 < 72 + 8 * 0 ∧ sendPhaseAt 0 147 = some (.cells 71 true) ∧ sendPhaseAt 0 148 = some .lag) ∧
    (held (due .bus) = true ∧ held sendingBeacon = false ∧ idle.lif.line = .idle ∧ waiting.lif.line = .watch) ∧
    admitting.lif.line = .receive .admission (.wait []) ∧
    (State.reset.resetLow = false ∧ State.reset.ntq.tx = some ⟨powerStartUpFrame, .startUp⟩ ∧
      (wireBytes powerStartUpFrame)[0]? = some 0xC3 ∧ (wireBytes powerStartUpFrame).length = 7) := by decide +kernel

theorem witness_FramesSentLeaveTheirQueues :
    (held State.reset = false ∧ State.reset.ntq.tx = some ⟨powerStartUpFrame, .startUp⟩) ∧
    (let f : Frame := ⟨0x95, 7, [0x00]⟩
     let s := { idle with ntq.replies := [⟨f, .reset⟩], ntq.tx := some ⟨f, .reply⟩ }
     s.ntq.tx = some ⟨f, .reply⟩ ∧ s.ntq.replies = ⟨f, .reset⟩ :: []) ∧
    (let s := { idle with ntq.notices := [.restarted 3], ntq.tx := some ⟨noticeFrame (.restarted 3), .notice⟩ }
     s.ntq.notices = .restarted 3 :: []) ∧
    (let s := { idle with ntq.marker := some 0, ntq.tx := some ⟨overflowFrame 2, .overflow⟩ }
     s.ntq.notices = [] ∧ s.ntq.marker = some 0) ∧
    { idle with ntq.pulse := some 10 }.ntq.pulse = some 10 := by decide +kernel

theorem witness_WholeResetsGivePowerOnValues :
    (due .full).resetLow = false ∧ (due .full).rex.resetInHand = some ⟨.full, true⟩ := by decide +kernel

theorem witness_ALinkResetLeavesTheBusAlone :
    (due .link).resetLow = false ∧ (due .link).rex.resetInHand = some ⟨.link, true⟩ := by decide +kernel

theorem witness_ABusResetStopsTheBusAlone :
    (due .bus).resetLow = false ∧ (due .bus).rex.resetInHand = some ⟨.bus, true⟩ ∧ (due .bus).ntq.tx = none ∧
    (due .bus).cye.start = none := by decide +kernel

end Sys2Proof.Tests
end

section
/-! What the named operations of the model leave of the state that the engine, the banks, the line and the open requests
are judged by: one projection of the state, and one lemma per operation that keeps it. -/

namespace Sys2Proof.Machine

-- One proof after another, not in parallel: the whole text compiles under a bound on memory.
set_option Elab.async false

/-! ### The control part of the state -/

/-- What EngineInv, BankInv and OpenInv read of the state. -/
structure Control where
  cye : Cye
  sbk : Sbk
  lif : Lif
  rex : Rex
  replies : List Reply
  refusals : Nat

/-- The control part of a state. -/
def control (s : State) : Control :=
  { cye := s.cye, sbk := s.sbk, lif := s.lif, rex := s.rex, replies := s.ntq.replies, refusals := s.ntq.refusals }

/-! ### Counters, records, the pool and notices -/

@[simp] theorem control_countGlobal (c : GlobalCounter) (s : State) : control (countGlobal c s) = control s := rfl
@[simp] theorem control_onStations (f : Station → Station) (s : State) : control (onStations f s) = control s := rfl
@[simp] theorem control_returnDown (s : State) : control (returnDown s) = control s := rfl
@[simp] theorem control_lendUp (s : State) : control (lendUp s) = control s := rfl
@[simp] theorem control_returnUp (s : State) : control (returnUp s) = control s := rfl

@[simp] theorem control_setStation (a : Nat) (r : Option Station) (s : State) :
    control (setStation a r s) = control s := by simp [control]

@[simp] theorem control_onStation (a : Nat) (f : Station → Station) (s : State) :
    control (onStation a f s) = control s := by simp [control]

@[simp] theorem control_countStation (a : Nat) (c : StationCounter) (s : State) :
    control (countStation a c s) = control s := by simp [control]

@[simp] theorem control_discardContext (a : Nat) (s : State) : control (discardContext a s) = control s := by
  simp [control]

@[simp] theorem control_setQueue (d : Nat) (q : List Nat) (s : State) : control (setQueue d q s) = control s := by
  simp [control]

/-- An offered notice touches the notices, the marker and ATTN, and never the reply queue (R183, R187). -/
@[simp] theorem control_offer (n : Notice) (s : State) : control (offer n s) = control s := by
  unfold offer attnOnFirst
  (repeat' split) <;> rfl

@[simp] theorem control_arbitrate (s : State) : control (arbitrate s) = control s := by simp [control]

@[simp] theorem control_rewindBroadcast (s : State) : control (rewindBroadcast s) = control s := rfl
@[simp] theorem control_setAdmission (r : AdmitResult) (e : Nat) (s : State) :
    control (setAdmission r e s) = control s := rfl
@[simp] theorem control_removeStranger (a : Nat) (s : State) : control (removeStranger a s) = control s := rfl

/-- A run of operations that each keep the control part keeps it. -/
theorem control_foldl {α : Type} {f : State → α → State} (hf : ∀ s x, control (f s x) = control s) (xs : List α)
    (s : State) : control (xs.foldl f s) = control s := by
  induction xs generalizing s with
  | nil => rfl
  | cons x xs ih => rw [List.foldl_cons, ih, hf]

/-! ### Messages and queues -/

@[simp] theorem control_countStationResult (d : Nat) (r : Result) (s : State) :
    control (countStationResult d r s) = control s := by simp [control]

@[simp] theorem control_endMessage (h : Nat) (r : Result) (w : Reason) (s : State) :
    control (endMessage h r w s) = control s := by
  unfold endMessage
  split
  · rfl
  · simp only [control_offer, control_countStationResult, control_countGlobal, control_returnDown]
    exact control_setQueue _ _ s

@[simp] theorem control_endMessages (hs : List Nat) (r : Result) (w : Reason) (s : State) :
    control (endMessages hs r w s) = control s := control_foldl (by simp) hs s

@[simp] theorem control_endQueue (q : List Nat) (w : Reason) (behind : Bool) (s : State) :
    control (endQueue q w behind s) = control s := by
  unfold endQueue
  (repeat' split) <;> simp

/-- DLV's judgement of an outstanding segment (R92 to R94). -/
@[simp] theorem control_takeAnswer (a : Nat) (ans : Option Answer) (s : State) :
    control (takeAnswer a ans s) = control s := by
  unfold takeAnswer judgeAcked judgeBusy judgeUnanswered onInFlight
  (repeat' split) <;> simp

/-- An accepted SEND (R82). -/
@[simp] theorem control_acceptSend (body : List Byte) (s : State) : control (acceptSend body s).1 = control s := by
  simp only [acceptSend, control_setQueue]
  rfl

/-! ### Presence (R48 to R53) -/

@[simp] theorem control_lose (a : Nat) (st : Station) (s : State) : control (lose a st s) = control s := by
  unfold lose
  split <;> simp

@[simp] theorem control_evaluateHeard (a : Nat) (st : Station) (s : State) :
    control (evaluateHeard a st s) = control s := by
  simp only [evaluateHeard]
  (repeat' split) <;> simp

@[simp] theorem control_evaluateMissed (a : Nat) (st : Station) (s : State) :
    control (evaluateMissed a st s) = control s := by
  simp only [evaluateMissed]
  (repeat' split) <;> simp

@[simp] theorem control_evaluate (b : Bank) (a : Nat) (s : State) : control (evaluate b a s) = control s := by
  unfold evaluate
  (repeat' split) <;> simp

@[simp] theorem control_evaluatePresence (s : State) : control (evaluatePresence s) = control s := by
  rw [evaluatePresence, clearHeard, control_onStations]
  exact control_foldl (fun t a => control_evaluate _ a t) _ s

/-! ### The judgement of a receive part (R64 to R71, R109 to R123) -/

@[simp] theorem control_addStranger (a : Nat) (cls : Byte) (why : StrangerReason) (s : State) :
    control (addStranger a cls why s) = control s := by
  unfold addStranger
  split
  · rfl
  · simp only [control_offer, control_countGlobal]
    rfl

@[simp] theorem control_acceptJoin (a : Nat) (cls : Byte) (st : Station) (s : State) :
    control (acceptJoin a cls st s) = control s := by
  unfold acceptJoin
  split <;> simp

@[simp] theorem control_resolveJoin (a : Nat) (cls : Byte) (s : State) : control (resolveJoin a cls s) = control s := by
  unfold resolveJoin
  (repeat' split) <;> simp

@[simp] theorem control_resolveAdmit (cls : RxClass) (s : State) : control (resolveAdmit cls s) = control s := by
  unfold resolveAdmit
  (repeat' split) <;> simp

@[simp] theorem control_complete (a : Nat) (bytes : List Byte) (s : State) :
    control (complete a bytes s) = control s := by
  unfold complete
  split <;> simp only [control_offer, control_countGlobal, control_countStation] <;> rfl

@[simp] theorem control_acceptSegment (a : Nat) (st : Station) (seg : Segment) (s : State) :
    control (acceptSegment a st seg s) = control s := by
  unfold acceptSegment
  (repeat' split) <;> simp

@[simp] theorem control_answerBusy (a : Nat) (s : State) : control (answerBusy a s) = control s := control_onStation a _ s

@[simp] theorem control_takeInSequence (a : Nat) (st : Station) (seg : Segment) (s : State) :
    control (takeInSequence a st seg s) = control s := by
  simp only [takeInSequence]
  (repeat' split) <;> simp

@[simp] theorem control_takeData (a : Nat) (seg : Segment) (s : State) : control (takeData a seg s) = control s := by
  unfold takeData
  (repeat' split) <;> simp

/-- The free choice of an order is no part of the control part (log 5). -/
@[simp] theorem control_choices (n : Nat) (s : State) : control { s with choices := n } = control s := rfl

@[simp] theorem control_judgeCurrent (a : Nat) (st : Station) (seg : Segment) (s : State) :
    control (judgeCurrent a st seg s) = control s := by
  simp only [judgeCurrent]
  (repeat' split) <;> simp

@[simp] theorem control_judgeGood (a : Nat) (st : Station) (seg : Segment) (s : State) :
    control (judgeGood a st seg s) = control s := by
  unfold judgeGood
  (repeat' split) <;> simp

@[simp] theorem control_judgeUpSlot (a : Nat) (cls : RxClass) (s : State) :
    control (judgeUpSlot a cls s) = control s := by
  unfold judgeUpSlot
  (repeat' split) <;> simp

/-! ### The swap (R34, R36) -/

@[simp] theorem control_rewindUnscheduled (s : State) : control (rewindUnscheduled s) = control s := by
  have h : ∀ (t : State) (a : Nat),
      control (if ownsDown s.sbk.active a then t else onStation a rewindStation t) = control t := by
    intro t a
    split <;> simp
  unfold rewindUnscheduled
  split <;> simp [control_foldl h]

/-- A swap acts on the banks and on in-flight records, and on nothing else (R34, R36). -/
theorem control_swap (s : State) :
    control (swap s) = { control s with
      sbk := { active := s.sbk.edit, edit := s.sbk.edit, epoch := s.sbk.epoch + 1, edited := false, commit := none } } := by
  rw [swap, control_rewindUnscheduled]
  rfl

@[simp] theorem control_swapPending (s : State) :
    control (swapPending s) = { control s with sbk := banksAfter s.sbk } := by
  unfold swapPending banksAfter
  split
  · exact control_swap s
  · rfl

/-! ### Slots and the beacon (R4, R6, R87, R90) -/

@[simp] theorem control_handOver (seg : Segment) (s : State) :
    control (handOver seg s) = { control s with lif := { line := .send seg .lead } } := rfl

theorem control_beginCycle (cycle : Byte) (s : State) :
    control (beginCycle cycle s) = { control s with
      cye := { s.cye with cycle := cycle, slot := 0 },
      lif := { line := .send (beacon { s with cye.cycle := cycle, cye.slot := 0 }) .lead } } := rfl

/-- A DOWN slot's work on the control part: the line is idle or begins a segment, and nothing else changes (R87, R90). -/
def IdlesOrSends (s t : State) : Prop :=
  control t = { control s with lif := { line := .idle } } ∨
  ∃ seg, control t = { control s with lif := { line := .send seg .lead } }

theorem idlesOrSends_idle (s : State) : IdlesOrSends s { s with lif.line := .idle } := .inl rfl

theorem idlesOrSends_handOver {seg : Segment} {s t : State} (h : control t = control s) :
    IdlesOrSends s (handOver seg t) := .inr ⟨seg, by rw [control_handOver, h]⟩

theorem idlesOrSends_sendData (a : Nat) (st : Station) (r : InFlight) (m : Message) (s : State) :
    IdlesOrSends s (sendData a st r m s) := by
  unfold sendData
  split <;> exact idlesOrSends_handOver (by simp)

theorem idlesOrSends_stationDownSlot (a : Nat) (s : State) : IdlesOrSends s (stationDownSlot a s) := by
  unfold stationDownSlot
  (repeat' split)
  · exact idlesOrSends_idle s
  · exact idlesOrSends_sendData a _ _ _ s
  all_goals exact idlesOrSends_handOver rfl

theorem idlesOrSends_broadcastDownSlot (s : State) : IdlesOrSends s (broadcastDownSlot s) := by
  simp only [broadcastDownSlot]
  split
  · exact idlesOrSends_idle s
  · split
    · exact idlesOrSends_idle s
    · rename_i r _ _ m _
      refine .inr ⟨broadcastSegment m r.index (r.seqSent.getD s.dlv.next) s, ?_⟩
      split
      · exact control_endMessage _ _ _ _
      · rfl

theorem idlesOrSends_downSlot (owner : Nat) (s : State) : IdlesOrSends s (downSlot owner s) := by
  unfold downSlot
  split
  · exact idlesOrSends_broadcastDownSlot s
  · exact idlesOrSends_stationDownSlot owner s

end Sys2Proof.Machine
end

section
/-! Commands that leave the control part as it is but for taking a request and answering it, and the rules by which a
predicate of the state is kept by a command. -/

namespace Sys2Proof.Machine

-- One proof after another, not in parallel: the whole text compiles under a bound on memory.
set_option Elab.async false

/-! ### Rules for taking a command -/

/-- A command keeps what its change keeps and the arbiter keeps. -/
theorem perform_keeps {P : State → Prop} {change : Option State} {s t : State} (arb : ∀ u, P u → P (arbitrate u))
    (hs : P s) (hu : ∀ u, change = some u → P u) (e : perform change s = .next t) : P t := by
  rcases perform_next change s with h | ⟨-, u, hc, h⟩
  · cases h.symm.trans e
    exact hs
  · cases h.symm.trans e
    exact arb u (hu u hc)

/-- A request command that does anything takes its request from the inbox, and its owner or the length check answers
it (R165). -/
theorem request_cases {kind tag : Byte} {body : List Byte} {owner : State → State} {s t : State}
    (e : request kind tag body owner s = .next t) :
    t = s ∨ ∃ rest, CanTake ⟨kind, tag, body⟩ rest s ∧
      (t = arbitrate (owner { s with rex.inbox := rest }) ∨
        t = arbitrate (reply kind tag .badLength [] { s with rex.inbox := rest })) := by
  by_cases h : ∃ rest, CanTake ⟨kind, tag, body⟩ rest s
  · obtain ⟨rest, h⟩ := h
    cases (request_canTake owner h).symm.trans e
    refine .inr ⟨rest, h, ?_⟩
    split
    · exact .inl rfl
    · exact .inr rfl
  · cases (request_cannot owner (not_exists.mp h)).symm.trans e
    exact .inl rfl

/-- A reset that takes effect keeps what its effect and the arbiter keep. -/
theorem takeEffect_keeps {P : State → Prop} {scope : Scope} {effect : State → State} {s t : State}
    (arb : ∀ u, P u → P (arbitrate u)) (hs : P s)
    (hu : s.rex.resetInHand = some { scope := scope, replySent := true } → P (effect s))
    (e : takeEffect scope effect s = .next t) : P t := by
  unfold takeEffect at e
  split at e
  · rename_i hc
    cases e
    exact arb _ (hu hc.2)
  · cases e
    exact hs

/-! ### Owners that only answer -/

/-- The control part changes by one reply to a taken request (R165, R187). -/
def Answers (s t : State) : Prop :=
  ∃ f, control t = { control s with replies := s.ntq.replies ++ [{ frame := f, place := .request }] }

/-- A reply after operations that keep the control part. -/
theorem answers_reply {kind tag : Byte} {st : Status} {items : List Byte} {s u : State} (h : control u = control s) :
    Answers s (reply kind tag st items u) := by
  refine ⟨replyFrame kind tag st items, ?_⟩
  have hr : u.ntq.replies = s.ntq.replies := congrArg Control.replies h
  have hc : control (reply kind tag st items u) = { control u with
      replies := u.ntq.replies ++ [{ frame := replyFrame kind tag st items, place := .request }] } := rfl
  rw [hc, h, hr]

theorem answers_takeCounters (tag : Byte) (body : List Byte) (s : State) : Answers s (takeCounters tag body s) := by
  simp only [takeCounters]
  (repeat' split) <;> exact answers_reply (by simp [control])

theorem answers_takeSchedRead (tag : Byte) (body : List Byte) (s : State) : Answers s (takeSchedRead tag body s) := by
  simp only [takeSchedRead]
  split <;> exact answers_reply rfl

theorem answers_takeEnroll (tag : Byte) (body : List Byte) (s : State) : Answers s (takeEnroll tag body s) := by
  simp only [takeEnroll]
  (repeat' split) <;> exact answers_reply (by simp)

theorem answers_takeRetire (tag : Byte) (body : List Byte) (s : State) : Answers s (takeRetire tag body s) := by
  simp only [takeRetire]
  (repeat' split) <;> exact answers_reply (by simp)

theorem answers_takeStationQuery (tag : Byte) (body : List Byte) (s : State) :
    Answers s (takeStationQuery tag body s) := by
  simp only [takeStationQuery]
  (repeat' split) <;> exact answers_reply rfl

theorem answers_takeStrangers (tag : Byte) (s : State) : Answers s (takeStrangers tag s) := answers_reply rfl

theorem answers_takeSend (tag : Byte) (body : List Byte) (s : State) : Answers s (takeSend tag body s) := by
  unfold takeSend
  split <;> exact answers_reply (by simp)

theorem answers_takeCancel (tag : Byte) (body : List Byte) (s : State) : Answers s (takeCancel tag body s) := by
  simp only [takeCancel]
  (repeat' split) <;> exact answers_reply (by simp)

theorem answers_takeFlush (tag : Byte) (body : List Byte) (s : State) : Answers s (takeFlush tag body s) := by
  simp only [takeFlush]
  (repeat' split) <;> exact answers_reply (by simp)

theorem answers_takeMsgStatus (tag : Byte) (body : List Byte) (s : State) : Answers s (takeMsgStatus tag body s) := by
  unfold takeMsgStatus
  split <;> exact answers_reply rfl

theorem answers_takeFetch (tag : Byte) (body : List Byte) (s : State) : Answers s (takeFetch tag body s) := by
  simp only [takeFetch]
  (repeat' split) <;> exact answers_reply rfl

theorem answers_takeGrant (tag : Byte) (body : List Byte) (s : State) : Answers s (takeGrant tag body s) := by
  simp only [takeGrant]
  split <;> exact answers_reply rfl

/-! ### Ordinary commands -/

/-- What an ordinary command can do to the control part: nothing, or the oldest request leaves the inbox and one reply to
it joins (R165). -/
def OrdinaryEffect (s t : State) : Prop :=
  control t = control s ∨
  ∃ r rest, CanTake r rest s ∧ Answers { s with rex.inbox := rest } t

theorem ordinary_request {kind tag : Byte} {body : List Byte} {owner : State → State} {s t : State}
    (ho : ∀ u, Answers u (owner u)) (e : request kind tag body owner s = .next t) : OrdinaryEffect s t := by
  rcases request_cases e with rfl | ⟨rest, hc, rfl | rfl⟩
  · exact .inl rfl
  · obtain ⟨f, hf⟩ := ho { s with rex.inbox := rest }
    exact .inr ⟨_, rest, hc, f, (control_arbitrate _).trans hf⟩
  · obtain ⟨f, hf⟩ := answers_reply (kind := kind) (tag := tag) (st := .badLength) (items := [])
      (Eq.refl (control { s with rex.inbox := rest }))
    exact .inr ⟨_, rest, hc, f, (control_arbitrate _).trans hf⟩

theorem ordinary_perform {change : Option State} {s t : State} (h : ∀ u, change = some u → control u = control s)
    (e : perform change s = .next t) : OrdinaryEffect s t :=
  .inl (perform_keeps (P := fun u => control u = control s) (fun u hu => (control_arbitrate u).trans hu) rfl h e)

/-- A request of an unknown kind is answered BAD_KIND (R165). -/
theorem ordinary_unknownRequestKind {kind tag : Byte} {body : List Byte} {s t : State}
    (e : execUnknownRequestKind kind tag body s = .next t) : OrdinaryEffect s t := by
  unfold execUnknownRequestKind at e
  rcases perform_next _ s with h | ⟨hh, u, hc, h⟩
  · cases h.symm.trans e
    exact .inl rfl
  · cases h.symm.trans e
    split at hc
    · rename_i r rest hr
      split at hc
      · rename_i ht
        cases hc
        have hlow : s.resetLow = false := by simp [held] at hh; exact hh.1
        obtain ⟨f, hf⟩ := answers_reply (kind := kind) (tag := tag) (st := .badKind) (items := [])
          (Eq.refl (control { s with rex.inbox := rest }))
        exact .inr ⟨r, rest, ⟨hlow, ht.1, hr⟩, f, (control_arbitrate _).trans hf⟩
      · cases hc
    · cases hc

/-- The commands that no rule lets touch the engine, the banks, the line or the settings, and that open or close no request
but by answering one at once. -/
def ordinary : Instr → Bool
  | .identify _ _ | .status _ _ | .readConfig _ _ | .counters _ _ | .unknownRequestKind _ _ _ | .schedRead _ _
  | .enroll _ _ | .retire _ _ | .stationQuery _ _ | .strangers _ _ | .send _ _ | .cancel _ _ | .flush _ _
  | .msgStatus _ _ | .fetch _ _ | .grant _ _ | .lengthError _ | .huntByteDiscarded _ | .gapTimeout | .characterError
  | .breakDetected | .attnPulseExpiry | .frameByteTaken _ | .characterStartEdge _ | .rxdReturnsHigh => true
  | .powerOn _ _ | .pinReset _ _ | .configure _ _ | .reset _ _ | .start _ _ | .stop _ _ | .schedEdit _ _
  | .schedCommit _ _ | .goodFrame _ | .checkError _ | .frameSent | .fullReset | .busReset | .linkReset
  | .listeningExpiry | .carrier | .slotStart | .transmissionCompleted | .echoMismatch _ _ _ | .cycleEnd
  | .stopCompletion | .upSlotReport _ _ | .admitSlotReport _ _ | .resetnLow _ => false

theorem exec_ordinary {c : Instr} {s t : State} (hc : ordinary c = true) (e : exec c s = .next t) :
    OrdinaryEffect s t := by
  cases c with
  | identify tag body => exact ordinary_request (fun u => answers_reply rfl) e
  | status tag body => exact ordinary_request (fun u => answers_reply rfl) e
  | readConfig tag body => exact ordinary_request (fun u => answers_reply rfl) e
  | counters tag body => exact ordinary_request (answers_takeCounters tag body) e
  | unknownRequestKind kind tag body => exact ordinary_unknownRequestKind e
  | schedRead tag body => exact ordinary_request (answers_takeSchedRead tag body) e
  | enroll tag body => exact ordinary_request (answers_takeEnroll tag body) e
  | retire tag body => exact ordinary_request (answers_takeRetire tag body) e
  | stationQuery tag body => exact ordinary_request (answers_takeStationQuery tag body) e
  | strangers tag body => exact ordinary_request (answers_takeStrangers tag) e
  | send tag body => exact ordinary_request (answers_takeSend tag body) e
  | cancel tag body => exact ordinary_request (answers_takeCancel tag body) e
  | flush tag body => exact ordinary_request (answers_takeFlush tag body) e
  | msgStatus tag body => exact ordinary_request (answers_takeMsgStatus tag body) e
  | fetch tag body => exact ordinary_request (answers_takeFetch tag body) e
  | grant tag body => exact ordinary_request (answers_takeGrant tag body) e
  | lengthError | huntByteDiscarded | gapTimeout | characterError | breakDetected | attnPulseExpiry
  | characterStartEdge | rxdReturnsHigh =>
    refine ordinary_perform (fun u hu => ?_) e
    split at hu <;> cases hu
    rfl
  | frameByteTaken b =>
    refine ordinary_perform (fun u hu => ?_) e
    split at hu
    · obtain ⟨rx, -, rfl⟩ := Option.map_eq_some_iff.mp hu
      rfl
    · cases hu
  | _ => cases hc

/-! ### What EngineInv says of the deferred records -/

theorem EngineInv.start_none {s : State} (h : EngineInv s) (hs : s.cye.state ≠ .listening) : s.cye.start = none := by
  obtain ⟨-, hstart, -⟩ := h
  exact Option.not_isSome_iff_eq_none.mp (mt hstart.mp hs)

theorem EngineInv.stop_none {s : State} (h : EngineInv s) (hs : s.cye.state ≠ .halting) : s.cye.stop = none := by
  obtain ⟨-, -, hstop, -⟩ := h
  exact Option.not_isSome_iff_eq_none.mp (mt hstop.mp hs)

theorem EngineInv.start_or_stop_none {s : State} (h : EngineInv s) : s.cye.start = none ∨ s.cye.stop = none := by
  by_cases hs : s.cye.state = .listening
  · exact .inr (h.stop_none (by rw [hs]; decide))
  · exact .inl (h.start_none hs)

end Sys2Proof.Machine
end

section
/-! Every open request accounted for: the ledger of open requests, what each operation does to it, and the invariant along
every step (R15, R162 to R164, R177, R187). -/

namespace Sys2Proof.Machine

-- One proof after another, not in parallel: the whole text compiles under a bound on memory.
set_option Elab.async false

/-! ### The ledger of open requests -/

/-- What OpenInv reads of the state. -/
structure Ledger where
  openCount : Nat
  inbox : List Request
  resetInHand : Option ResetInHand
  start : Option Deferred
  stop : Option Deferred
  commit : Option Deferred
  replies : List Reply
  refusals : Nat

/-- The ledger of a control part. -/
def Control.ledger (c : Control) : Ledger :=
  { openCount := c.rex.openCount, inbox := c.rex.inbox, resetInHand := c.rex.resetInHand, start := c.cye.start,
    stop := c.cye.stop, commit := c.sbk.commit, replies := c.replies, refusals := c.refusals }

/-- The ledger of a state. -/
def ledger (s : State) : Ledger := (control s).ledger

theorem ledger_of_control {s t : State} (h : control t = control s) : ledger t = ledger s := congrArg Control.ledger h

/-- The places of a kind taken in the reply queue (R187). -/
def Ledger.places (l : Ledger) (p : Place) : Nat := l.replies.countP fun r => r.place = p

/-- A frame joins the reply queue with the place it holds (R187). -/
def Ledger.join (l : Ledger) (f : Frame) (p : Place) : Ledger :=
  { l with replies := l.replies ++ [{ frame := f, place := p }] }

/-- The oldest reply leaves the queue: an open request closes, or a refusal place is free, and after a RESET reply its reset
is due (R164, R177, R187). -/
def Ledger.sent (l : Ledger) (r : Reply) (rest : List Reply) : Ledger :=
  match r.place with
  | .request => { l with replies := rest, openCount := l.openCount - 1 }
  | .refusal => { l with replies := rest, refusals := l.refusals - 1 }
  | .reset => { l with replies := rest, openCount := l.openCount - 1,
                       resetInHand := l.resetInHand.map fun r => { r with replySent := true } }

/-- OpenInv in the midst of an event, while `n` open requests have left the inbox or lost their deferred record and their
replies have still to join. -/
structure Ledger.Owing (n : Nat) (l : Ledger) : Prop where
  sum : l.openCount = l.inbox.length + l.places .request + l.places .reset + owed l.start + owed l.stop +
    owed l.commit + n
  openCount_le : l.openCount ≤ 8
  inbox_le : l.inbox.length ≤ 4
  refusals_eq : l.refusals = l.places .refusal
  refusals_le : l.refusals ≤ 2
  reset_eq : l.places .reset = (if l.resetInHand.any (fun r => !r.replySent) then 1 else 0)

/-- Between events nothing is left to join. -/
theorem openInv_iff (s : State) : OpenInv s ↔ (ledger s).Owing 0 :=
  ⟨fun ⟨h1, h2, h3, h4, h5, h6⟩ => ⟨h1, h2, h3, h4, h5, h6⟩, fun ⟨h1, h2, h3, h4, h5, h6⟩ => ⟨h1, h2, h3, h4, h5, h6⟩⟩

namespace Ledger

theorem places_join (l : Ledger) (f : Frame) (p q : Place) :
    (l.join f q).places p = l.places p + if q = p then 1 else 0 := by
  simp [places, join, List.countP_append, List.countP_cons]

variable {n : Nat} {l : Ledger}

theorem Owing.of_eq {l' : Ledger} (h : l.Owing n) (e : l' = l) : l'.Owing n := e ▸ h

/-! ### What an event can do to the ledger -/

/-- A request that is taken is owed its reply (R164, R165). -/
theorem Owing.take {r : Request} {rest : List Request} (h : l.Owing n) (hin : l.inbox = r :: rest) :
    ({ l with inbox := rest } : Ledger).Owing (n + 1) := by
  have hlen : l.inbox.length = rest.length + 1 := by rw [hin, List.length_cons]
  have hsum := h.sum
  have hle := h.inbox_le
  refine { h with sum := ?_, inbox_le := ?_ }
  · change l.openCount = rest.length + l.places .request + l.places .reset + owed l.start + owed l.stop +
      owed l.commit + _
    omega
  · change rest.length ≤ 4
    omega

/-- A reply that joins settles one request. -/
theorem Owing.reply (h : l.Owing (n + 1)) (f : Frame) : (l.join f .request).Owing n := by
  have hsum := h.sum
  have hrequest : (l.join f .request).places .request = l.places .request + 1 := places_join l f .request .request
  have hplaces : (l.join f .request).places .reset = l.places .reset := places_join l f .reset .request
  refine { h with sum := ?_, refusals_eq := h.refusals_eq.trans (places_join l f .refusal .request).symm,
                  reset_eq := hplaces.trans h.reset_eq }
  change l.openCount = l.inbox.length + (l.join f .request).places .request + (l.join f .request).places .reset +
    owed l.start + owed l.stop + owed l.commit + n
  omega

/-- The START record goes; its reply, if it is owed one, has still to join. -/
theorem Owing.dropStart (h : l.Owing n) : ({ l with start := none } : Ledger).Owing (n + owed l.start) := by
  have hsum := h.sum
  refine { h with sum := ?_ }
  change l.openCount = l.inbox.length + l.places .request + l.places .reset + 0 + owed l.stop + owed l.commit + _
  omega

/-- The STOP record goes; its reply, if it is owed one, has still to join. -/
theorem Owing.dropStop (h : l.Owing n) : ({ l with stop := none } : Ledger).Owing (n + owed l.stop) := by
  have hsum := h.sum
  refine { h with sum := ?_ }
  change l.openCount = l.inbox.length + l.places .request + l.places .reset + owed l.start + 0 + owed l.commit + _
  omega

/-- The COMMIT record goes; its reply, if it is owed one, has still to join. -/
theorem Owing.dropCommit (h : l.Owing n) : ({ l with commit := none } : Ledger).Owing (n + owed l.commit) := by
  have hsum := h.sum
  refine { h with sum := ?_ }
  change l.openCount = l.inbox.length + l.places .request + l.places .reset + owed l.start + owed l.stop + 0 + _
  omega

/-- A START that is taken over is owed its reply by its record (R15). -/
theorem Owing.deferStart (h : l.Owing (n + 1)) (hn : l.start = none) (tag : Byte) :
    ({ l with start := some { tag := tag, forgotten := false } } : Ledger).Owing n := by
  have hsum := h.sum
  rw [hn] at hsum
  refine { h with sum := hsum.trans ?_ }
  change l.inbox.length + l.places .request + l.places .reset + 0 + owed l.stop + owed l.commit + _ =
    l.inbox.length + l.places .request + l.places .reset + 1 + owed l.stop + owed l.commit + _
  omega

/-- A STOP that is taken over is owed its reply by its record (R15). -/
theorem Owing.deferStop (h : l.Owing (n + 1)) (hn : l.stop = none) (tag : Byte) :
    ({ l with stop := some { tag := tag, forgotten := false } } : Ledger).Owing n := by
  have hsum := h.sum
  rw [hn] at hsum
  refine { h with sum := hsum.trans ?_ }
  change l.inbox.length + l.places .request + l.places .reset + owed l.start + 0 + owed l.commit + _ =
    l.inbox.length + l.places .request + l.places .reset + owed l.start + 1 + owed l.commit + _
  omega

/-- A COMMIT that is taken over is owed its reply by its record (R26, R32). -/
theorem Owing.deferCommit (h : l.Owing (n + 1)) (hn : l.commit = none) (tag : Byte) :
    ({ l with commit := some { tag := tag, forgotten := false } } : Ledger).Owing n := by
  have hsum := h.sum
  rw [hn] at hsum
  refine { h with sum := hsum.trans ?_ }
  change l.inbox.length + l.places .request + l.places .reset + owed l.start + owed l.stop + 0 + _ =
    l.inbox.length + l.places .request + l.places .reset + owed l.start + owed l.stop + 1 + _
  omega

/-- A taken RESET puts its reset in hand and holds the place kept for a reset's reply (R177, R187). -/
theorem Owing.handReset (h : l.Owing (n + 1)) (hn : l.resetInHand = none) (f : Frame) (scope : Scope) :
    ({ l.join f .reset with resetInHand := some { scope := scope, replySent := false } } : Ledger).Owing n := by
  have hsum := h.sum
  have hreset : l.places .reset = 0 := h.reset_eq.trans (by rw [hn]; rfl)
  have hrequest : (l.join f .reset).places .request = l.places .request := places_join l f .request .reset
  have hplaces : (l.join f .reset).places .reset = l.places .reset + 1 := places_join l f .reset .reset
  refine { h with sum := ?_, refusals_eq := h.refusals_eq.trans (places_join l f .refusal .reset).symm, reset_eq := ?_ }
  · change l.openCount = l.inbox.length + (l.join f .reset).places .request + (l.join f .reset).places .reset +
      owed l.start + owed l.stop + owed l.commit + n
    omega
  · change (l.join f .reset).places .reset = 1
    omega

/-- A good frame joins the inbox as an open request (R163). -/
theorem Owing.accept (h : l.Owing n) (hin : l.inbox.length < 4) (hopen : l.openCount < 8) (r : Request) :
    ({ l with inbox := l.inbox ++ [r], openCount := l.openCount + 1 } : Ledger).Owing n := by
  have hsum := h.sum
  have hlen : (l.inbox ++ [r]).length = l.inbox.length + 1 := List.length_append
  refine { h with sum := ?_, openCount_le := hopen, inbox_le := hlen.trans_le hin }
  change l.openCount + 1 = (l.inbox ++ [r]).length + l.places .request + l.places .reset + owed l.start +
    owed l.stop + owed l.commit + n
  omega

/-- A refusal takes a free refusal place (R156, R163). -/
theorem Owing.refuse (h : l.Owing n) (hfree : l.refusals < 2) (f : Frame) :
    ({ l.join f .refusal with refusals := l.refusals + 1 } : Ledger).Owing n := by
  have hsum := h.sum
  have hrequest : (l.join f .refusal).places .request = l.places .request := places_join l f .request .refusal
  have hplaces : (l.join f .refusal).places .reset = l.places .reset := places_join l f .reset .refusal
  refine { h with sum := ?_, refusals_eq := ?_, refusals_le := hfree, reset_eq := hplaces.trans h.reset_eq }
  · change l.openCount = l.inbox.length + (l.join f .refusal).places .request + (l.join f .refusal).places .reset +
      owed l.start + owed l.stop + owed l.commit + n
    omega
  · exact (congrArg (· + 1) h.refusals_eq).trans (places_join l f .refusal .refusal).symm

/-- The oldest reply has been sent: it frees the place it held (R164, R177, R187). -/
theorem Owing.sent {r : Reply} {rest : List Reply} (h : l.Owing n) (hr : l.replies = r :: rest) :
    (l.sent r rest).Owing n := by
  have hplaces : ∀ p, l.places p = rest.countP (fun x => x.place = p) + if r.place = p then 1 else 0 := by
    intro p
    simp [places, hr, List.countP_cons]
  obtain ⟨hsum, hopen, hinbox, hrefusals, hbound, hreset⟩ := h
  simp only [hplaces] at hsum hrefusals hreset
  unfold Ledger.sent
  cases hp : r.place <;> simp only [hp, reduceCtorEq, if_true, if_false] at hsum hrefusals hreset ⊢
  · refine ⟨?_, ?_, hinbox, hrefusals, hbound, hreset⟩ <;> simp only [places] <;> omega
  · refine ⟨hsum, hopen, hinbox, ?_, ?_, hreset⟩ <;> simp only [places] <;> omega
  · refine ⟨?_, ?_, hinbox, hrefusals, hbound, ?_⟩ <;> simp only [places]
    · omega
    · omega
    · have hone : rest.countP (fun x => decide (x.place = .reset)) = 0 := by
        split at hreset <;> omega
      rw [hone]
      cases l.resetInHand <;> rfl

/-- A reset whose reply has been sent has no place left in the reply queue, and goes (R177, R178). -/
theorem Owing.resetTaken (h : l.Owing n) (hin : l.resetInHand.any (fun r => !r.replySent) = false) :
    ({ l with resetInHand := none } : Ledger).Owing n :=
  { h with reset_eq := h.reset_eq.trans (by rw [hin]; rfl) }

end Ledger

/-! ### The ledger under the named operations -/

theorem ledger_arbitrate (s : State) : ledger (arbitrate s) = ledger s := ledger_of_control (control_arbitrate s)

/-- A boundary takes the COMMIT record, if there is one, and its reply has still to join (R32). -/
theorem ledger_swapPending (s : State) : ledger (swapPending s) = { ledger s with commit := none } := by
  refine (congrArg Control.ledger (control_swapPending s)).trans ?_
  cases hc : s.sbk.commit <;> simp [banksAfter, hc, ledger, Control.ledger, control]

/-- The replies of a boundary join, in one order or the other (R32, R178). -/
theorem owing_joinEither {n : Nat} {s : State} {a b : Option Frame}
    (h : (ledger s).Owing (n + a.isSome.toNat + b.isSome.toNat)) : (ledger (joinEither a b s)).Owing n := by
  cases a with
  | none =>
    cases b with
    | none => exact h
    | some g => exact h.reply g
  | some f =>
    cases b with
    | none => exact h.reply f
    | some g =>
      unfold joinEither
      dsimp only
      split
      · exact (h.reply g).reply f
      · exact (h.reply f).reply g

/-- A deferred record gives a reply exactly when it is owed one (R15, R19). -/
theorem deferredFrame_isSome (d : Option Deferred) (kind : Byte) (st : Status) (items : List Byte) :
    (deferredFrame d kind st items).isSome.toNat = owed d := by
  cases d with
  | none => rfl
  | some r => cases hf : r.forgotten <;> simp [deferredFrame, owed, hf]

theorem owing_answers {n : Nat} {s t : State} (h : (ledger s).Owing (n + 1)) (e : Answers s t) : (ledger t).Owing n := by
  obtain ⟨f, hf⟩ := e
  exact (h.reply f).of_eq (congrArg Control.ledger hf)

/-- A reply that joins after operations that keep the ledger. -/
theorem owing_reply {n : Nat} {kind tag : Byte} {st : Status} {items : List Byte} {s u : State}
    (h : (ledger s).Owing (n + 1)) (e : ledger u = ledger s) : (ledger (reply kind tag st items u)).Owing n :=
  owing_answers (h.of_eq e) (answers_reply rfl)

theorem owing_take {n : Nat} {r : Request} {rest : List Request} {s : State} (h : (ledger s).Owing n)
    (hc : CanTake r rest s) : (ledger { s with rex.inbox := rest }).Owing (n + 1) := h.take hc.2.2

theorem owing_ordinary {s t : State} (h : (ledger s).Owing 0) (e : OrdinaryEffect s t) : (ledger t).Owing 0 := by
  rcases e with e | ⟨r, rest, hc, e⟩
  · exact h.of_eq (ledger_of_control e)
  · exact owing_answers (owing_take h hc) e

/-! ### Rules for taking a command -/

/-- A command keeps every open request accounted for where its change does. -/
theorem owing_perform {change : Option State} {s t : State} (h : (ledger s).Owing 0)
    (hu : ∀ u, change = some u → (ledger u).Owing 0) (e : perform change s = .next t) : (ledger t).Owing 0 :=
  perform_keeps (P := fun u => (ledger u).Owing 0) (fun u hu => hu.of_eq (ledger_arbitrate u)) h hu e

/-- A command with a condition, in the same terms. -/
theorem owing_performIf {p : Prop} [Decidable p] {v s t : State} (h : (ledger s).Owing 0) (hv : (ledger v).Owing 0)
    (e : perform (if p then some v else none) s = .next t) : (ledger t).Owing 0 := by
  refine owing_perform h (fun u hu => ?_) e
  split at hu <;> cases hu
  exact hv

/-- A request command keeps every open request accounted for where its owner answers the request or takes it over. -/
theorem owing_request {kind tag : Byte} {body : List Byte} {owner : State → State} {s t : State}
    (h : (ledger s).Owing 0)
    (ho : ∀ u, u.cye = s.cye → u.rex.resetInHand = none → (ledger u).Owing 1 → (ledger (owner u)).Owing 0)
    (e : request kind tag body owner s = .next t) : (ledger t).Owing 0 := by
  rcases request_cases e with rfl | ⟨rest, hc, rfl | rfl⟩
  · exact h
  · exact (ho { s with rex.inbox := rest } rfl hc.2.1 (owing_take h hc)).of_eq (ledger_arbitrate _)
  · exact (owing_reply (owing_take h hc) rfl).of_eq (ledger_arbitrate _)

theorem owing_takeEffect {scope : Scope} {effect : State → State} {s t : State} (h : (ledger s).Owing 0)
    (hu : s.rex.resetInHand = some { scope := scope, replySent := true } → (ledger (effect s)).Owing 0)
    (e : takeEffect scope effect s = .next t) : (ledger t).Owing 0 :=
  takeEffect_keeps (P := fun u => (ledger u).Owing 0) (fun u hu => hu.of_eq (ledger_arbitrate u)) h hu e

/-! ### Requests that may be deferred (R9, R11, R26, R177) -/

theorem owing_takeStart (tag : Byte) {s : State} (he : s.cye.state = .stopped → s.cye.start = none)
    (h : (ledger s).Owing 1) : (ledger (takeStart tag s)).Owing 0 := by
  unfold takeStart
  split
  · rename_i hstate
    exact h.deferStart (he hstate) tag
  all_goals exact owing_reply h rfl

/-- LISTENING ends without a run, and START's reply joins (R10, R11). -/
theorem owing_endListening {n : Nat} {s u : State} (st : Status) (h : (ledger s).Owing n)
    (hu : ledger u = { ledger s with start := none }) :
    (ledger (joinEither (startReply s st) none u)).Owing n := by
  refine owing_joinEither ?_
  rw [hu, startReply, deferredFrame_isSome]
  exact h.dropStart

theorem owing_takeStop (tag : Byte) {s : State} (he : s.cye.state = .running → s.cye.stop = none)
    (h : (ledger s).Owing 1) : (ledger (takeStop tag s)).Owing 0 := by
  unfold takeStop
  split
  · exact owing_reply h rfl
  · exact owing_reply (owing_endListening .cancelled h rfl) rfl
  · rename_i hstate
    exact h.deferStop (he hstate) tag
  · exact owing_reply h rfl

theorem ledger_applySettings (c : Settings) (s : State) : ledger (applySettings c s) = ledger s := by
  unfold applySettings changeAttnMode
  split <;> rfl

theorem owing_takeConfigure (tag : Byte) (body : List Byte) {s : State} (h : (ledger s).Owing 1) :
    (ledger (takeConfigure tag body s)).Owing 0 := by
  unfold takeConfigure
  (repeat' split)
  · exact owing_reply h (ledger_applySettings _ s)
  all_goals exact owing_reply h rfl

theorem owing_takeSchedEdit (tag : Byte) (body : List Byte) {s : State} (h : (ledger s).Owing 1) :
    (ledger (takeSchedEdit tag body s)).Owing 0 := by
  simp only [takeSchedEdit]
  (repeat' split) <;> exact owing_reply h rfl

theorem owing_takeSchedCommit (tag : Byte) {s : State} (h : (ledger s).Owing 1) :
    (ledger (takeSchedCommit tag s)).Owing 0 := by
  unfold takeSchedCommit
  split
  · exact owing_reply h rfl
  · rename_i hcommit
    have hnone : (ledger s).commit = none := Option.not_isSome_iff_eq_none.mp hcommit
    (repeat' split)
    · exact owing_reply h rfl
    · exact owing_reply h rfl
    · refine owing_reply h ((congrArg Control.ledger (control_swap s)).trans ?_)
      change ({ ledger s with commit := none } : Ledger) = ledger s
      rw [← hnone]
    · exact h.deferCommit hnone tag

theorem owing_takeReset (tag : Byte) (body : List Byte) {s : State} (hn : s.rex.resetInHand = none)
    (h : (ledger s).Owing 1) : (ledger (takeReset tag body s)).Owing 0 := by
  unfold takeReset
  split
  · exact owing_reply h rfl
  · exact h.handReset hn _ _

/-! ### The frame receiver and the transmitter (R156, R158, R163, R164) -/

theorem owing_refuse {s : State} (f : Frame) (made dropped : Option GlobalCounter) (h : (ledger s).Owing 0) :
    (ledger (refuse f made dropped s)).Owing 0 := by
  unfold refuse
  split
  · rename_i hfree
    cases made <;> exact h.refuse hfree f
  · cases dropped <;> exact h

theorem owing_acceptFrame (r : Request) {s : State} (h : (ledger s).Owing 0) :
    (ledger (acceptFrame r s)).Owing 0 := by
  unfold acceptFrame
  split
  · rename_i hroom
    exact h.accept hroom.1 hroom.2 r
  · exact owing_refuse _ _ _ h

theorem owing_replySent {s : State} (h : (ledger s).Owing 0) : (ledger (replySent s)).Owing 0 := by
  unfold replySent
  split
  · exact h
  · rename_i r rest hr
    have hsent := h.sent hr
    unfold Ledger.sent at hsent
    cases hp : r.place <;> rw [hp] at hsent <;> exact hsent

theorem ledger_attnOnLeave (s : State) : ledger (attnOnLeave s) = ledger s := by
  unfold attnOnLeave
  (repeat' split) <;> rfl

theorem owing_frameSent (src : TxSource) {s : State} (h : (ledger s).Owing 0) : (ledger (frameSent src s)).Owing 0 := by
  cases src with
  | startUp => exact h
  | reply => exact owing_replySent h
  | notice => exact h.of_eq (ledger_attnOnLeave _)
  | overflow => exact h.of_eq (ledger_attnOnLeave _)

/-! ### The boundaries of the engine (R7, R8, R10, R12) -/

theorem commitReply_isSome (s : State) : (commitReply s).isSome.toNat = owed s.sbk.commit := deferredFrame_isSome _ _ _ _

theorem ledger_beginCycle (cycle : Byte) (s : State) : ledger (beginCycle cycle s) = ledger s := rfl

/-- The cycle end answers a swapped commit (R7, R32). -/
theorem owing_endCycle {s : State} (h : (ledger s).Owing 0) : (ledger (endCycle s)).Owing 0 := by
  have hp : ledger (evaluatePresence s) = ledger s := ledger_of_control (control_evaluatePresence s)
  rw [endCycle, ledger_beginCycle]
  generalize evaluatePresence s = t at hp ⊢
  refine owing_joinEither ?_
  rw [ledger_swapPending, commitReply_isSome]
  exact (h.of_eq hp).dropCommit

/-- The stop completion answers STOP and a swapped commit (R8, R14, R32). -/
theorem owing_completeStop {s : State} (h : (ledger s).Owing 0) : (ledger (completeStop s)).Owing 0 := by
  refine owing_joinEither ?_
  rw [ledger_swapPending, commitReply_isSome, stopReply, deferredFrame_isSome]
  exact h.dropStop.dropCommit

/-- A run's beginning answers START and a swapped commit (R10, R32). -/
theorem owing_beginRun {s : State} (h : (ledger s).Owing 0) : (ledger (beginRun s)).Owing 0 := by
  rw [beginRun, ledger_beginCycle]
  refine owing_joinEither ?_
  rw [ledger_swapPending, commitReply_isSome, startReply, deferredFrame_isSome]
  exact h.dropStart.dropCommit

theorem owing_abortSegment (seg : Segment) {s : State} (h : (ledger s).Owing 0) :
    (ledger (abortSegment seg s)).Owing 0 := by
  simp only [abortSegment]
  split
  · refine owing_completeStop ?_
    rw [ledger_of_control (control_offer _ _)]
    exact h
  · exact h

theorem ledger_startSlot (s : State) : ledger (startSlot s) = ledger s := by
  simp only [startSlot]
  split
  · rfl
  · rcases idlesOrSends_downSlot (entryAt s.sbk.active s.cye.slot).owner
      { s with cye.slot := s.cye.slot + 1 } with e | ⟨seg, e⟩ <;> exact (congrArg Control.ledger e).trans rfl
  all_goals rfl

/-- A report of a receive part reaches no open request (R109, R142). -/
theorem owing_takeReport {slot : RxSlot} {edges : List Edge} {upTo : Nat} {judge : RxClass → State → State} {s u : State}
    (hj : ∀ cls v, control (judge cls v) = control v) (h : (ledger s).Owing 0)
    (e : takeReport slot edges upTo judge s = some u) : (ledger u).Owing 0 := by
  rcases takeReport_cases slot edges upTo judge s with hn | ⟨phase, -, -, ⟨r, -, hr⟩ | ⟨-, hr⟩⟩
  · cases hn.symm.trans e
  · cases hr.symm.trans e
    rw [ledger_of_control (hj _ _)]
    unfold settle
    dsimp only
    split <;> exact h
  · cases hr.symm.trans e
    exact h

/-! ### Resets (R17, R18, R19) -/

/-- A reset of every block leaves no request open. -/
theorem owing_resetBlocks (hlk : Hlk) (startUp : Option Cause) (low : Bool) (s : State) :
    (ledger (resetBlocks hlk startUp low s)).Owing 0 :=
  { sum := rfl, openCount_le := Nat.zero_le _, inbox_le := Nat.zero_le _, refusals_eq := rfl,
    refusals_le := Nat.zero_le _, reset_eq := rfl }

/-- START and STOP never stand together, so that one ABANDONED reply stands for both (R15, R18). -/
theorem abandonedEngineReply_isSome {s : State} (hone : s.cye.start = none ∨ s.cye.stop = none) :
    (abandonedEngineReply s).isSome.toNat = owed s.cye.start + owed s.cye.stop := by
  have hstart := deferredFrame_isSome s.cye.start kindStart .abandoned []
  have hstop := deferredFrame_isSome s.cye.stop kindStop .abandoned []
  unfold abandonedEngineReply startReply stopReply
  rcases hone with h | h
  · rw [h, ← hstop]
    exact (Nat.zero_add _).symm
  · rw [h, ← hstart]
    cases deferredFrame s.cye.start kindStart .abandoned [] <;> rfl

/-- A BUS reset answers the deferred records ABANDONED and keeps the requests that wait (R18, R37, R178). -/
theorem owing_busReset {s t : State} (hone : s.cye.start = none ∨ s.cye.stop = none) (h : (ledger s).Owing 0)
    (e : execBusReset s = .next t) : (ledger t).Owing 0 := by
  refine owing_takeEffect h (fun hin => ?_) e
  refine owing_joinEither ?_
  rw [abandonedEngineReply_isSome hone, deferredFrame_isSome, ← Nat.add_assoc]
  exact ((h.dropStart.dropStop.dropCommit).resetTaken
    (show (s.rex.resetInHand.any fun r => !r.replySent) = false by rw [hin]; rfl))

theorem owed_forget (d : Option Deferred) : owed (forget d) = 0 := by cases d <;> rfl

/-- A LINK reset forgets every open request (R19, R179). -/
theorem owing_linkReset {s t : State} (h : (ledger s).Owing 0) (e : execLinkReset s = .next t) :
    (ledger t).Owing 0 := by
  refine owing_takeEffect h (fun _ => ?_) e
  refine { sum := ?_, openCount_le := Nat.zero_le _, inbox_le := Nat.zero_le _, refusals_eq := rfl,
           refusals_le := Nat.zero_le _, reset_eq := rfl }
  change 0 = 0 + 0 + 0 + owed (forget s.cye.start) + owed (forget s.cye.stop) + owed (forget s.sbk.commit) + 0
  simp only [owed_forget]

/-! ### Every command and every step -/

theorem owing_exec {c : Instr} {s t : State} (he : EngineInv s) (h : (ledger s).Owing 0) (e : exec c s = .next t) :
    (ledger t).Owing 0 := by
  cases c with
  | powerOn | pinReset =>
    cases e
    exact (owing_resetBlocks ..).of_eq (ledger_arbitrate _)
  | resetnLow n =>
    change execResetnLow s n = .next t at e
    unfold execResetnLow at e
    split at e <;> cases e
    · exact owing_resetBlocks ..
    · exact h
  | configure tag body => exact owing_request h (fun u _ _ hu => owing_takeConfigure tag body hu) e
  | reset tag body => exact owing_request h (fun u _ hn hu => owing_takeReset tag body hn hu) e
  | start tag body =>
    exact owing_request h (fun u hc _ hu => owing_takeStart tag
      (fun hs => hc ▸ he.start_none (by rw [← hc, hs]; decide)) hu) e
  | stop tag body =>
    exact owing_request h (fun u hc _ hu => owing_takeStop tag
      (fun hs => hc ▸ he.stop_none (by rw [← hc, hs]; decide)) hu) e
  | schedEdit tag body => exact owing_request h (fun u _ _ hu => owing_takeSchedEdit tag body hu) e
  | schedCommit tag body => exact owing_request h (fun u _ _ hu => owing_takeSchedCommit tag hu) e
  | goodFrame b =>
    refine owing_perform h (fun u hu => ?_) e
    split at hu <;> cases hu
    exact owing_acceptFrame _ h
  | checkError b =>
    refine owing_perform h (fun u hu => ?_) e
    split at hu <;> cases hu
    exact owing_refuse _ _ _ h
  | frameSent =>
    refine owing_perform h (fun u hu => ?_) e
    obtain ⟨f, -, rfl⟩ := Option.map_eq_some_iff.mp hu
    exact owing_frameSent _ h
  | fullReset => exact owing_takeEffect h (fun _ => owing_resetBlocks ..) e
  | busReset => exact owing_busReset he.start_or_stop_none h e
  | linkReset => exact owing_linkReset h e
  | listeningExpiry => exact owing_performIf h (owing_beginRun h) e
  | carrier => exact owing_performIf h (owing_endListening .lineBusy h rfl) e
  | slotStart => exact owing_performIf h (h.of_eq (ledger_startSlot s)) e
  | transmissionCompleted =>
    refine owing_perform h (fun u hu => ?_) e
    split at hu <;> cases hu
    exact h
  | echoMismatch cell second level =>
    refine owing_perform h (fun u hu => ?_) e
    (repeat' split at hu) <;> cases hu
    exact owing_abortSegment _ h
  | cycleEnd => exact owing_performIf h (owing_endCycle h) e
  | stopCompletion => exact owing_performIf h (owing_completeStop h) e
  | upSlotReport edges upTo =>
    exact owing_perform h (fun u hu => owing_takeReport (control_judgeUpSlot _) h hu) e
  | admitSlotReport edges upTo => exact owing_perform h (fun u hu => owing_takeReport control_resolveAdmit h hu) e
  | _ => exact owing_ordinary h (exec_ordinary rfl e)

/-- Settles O58: each command is followed through the ledger of open requests, on which every reply that joins settles
one request that has left the inbox or lost its deferred record. -/
theorem stepsAccountForOpenRequests : Obligations.StepsAccountForOpenRequests := by
  intro s t he ho e
  rw [openInv_iff] at ho ⊢
  unfold step at e
  split at e
  · rename_i c rest _
    exact owing_exec (s := { s with pending := rest }) he ho e
  · cases e
    rw [tick_eq]
    exact ho

end Sys2Proof.Machine
end

section
/-! The engine, the line, the settings and the banks in order along every step (R1, R9 to R15, R27 to R34, R129, R171). -/

namespace Sys2Proof.Machine

-- One proof after another, not in parallel: the whole text compiles under a bound on memory.
set_option Elab.async false

/-! ### The engine side of the state -/

/-- What EngineInv and BankInv read of the state. -/
structure EngineSide where
  cye : Cye
  sbk : Sbk
  lif : Lif
  config : Settings

/-- The engine side of a control part. -/
def Control.engineSide (c : Control) : EngineSide := { cye := c.cye, sbk := c.sbk, lif := c.lif, config := c.rex.config }

/-- The engine side of a state. -/
def engineSide (s : State) : EngineSide := (control s).engineSide

theorem engineSide_of_control {s t : State} (h : control t = control s) : engineSide t = engineSide s :=
  congrArg Control.engineSide h

/-- The invariants of the engine and of the banks together: the swap of R34 needs both. -/
def EngineBankInv (s : State) : Prop := EngineInv s ∧ BankInv s

theorem EngineInv.congr {s t : State} (h : EngineInv s) (hcye : t.cye = s.cye) (hlif : t.lif = s.lif)
    (hcfg : t.rex.config = s.rex.config) (hact : t.sbk.active = s.sbk.active) : EngineInv t := by
  unfold EngineInv inRun at *
  rw [hcye, hlif, hcfg, hact]
  exact h

theorem BankInv.congr {s t : State} (h : BankInv s) (hsbk : t.sbk = s.sbk) : BankInv t := by
  unfold BankInv at *
  rw [hsbk]
  exact h

theorem EngineBankInv.congr {s t : State} (h : EngineBankInv s) (e : engineSide t = engineSide s) :
    EngineBankInv t := by
  have hsbk : t.sbk = s.sbk := congrArg EngineSide.sbk e
  exact ⟨h.1.congr (congrArg EngineSide.cye e) (congrArg EngineSide.lif e) (congrArg EngineSide.config e)
    (congrArg Sbk.active hsbk), h.2.congr hsbk⟩

/-! ### The engine's states -/

/-- A stopped engine has nothing pending, and its line is idle (R1, R15, R129). -/
structure AtRest (s : State) : Prop where
  settings : SettingsInRange s.rex.config
  state : s.cye.state = .stopped
  start : s.cye.start = none
  stop : s.cye.stop = none
  deadline : s.cye.deadline = none
  line : s.lif.line = .idle
  slot : s.cye.slot = 0
  streak : s.cye.streak ≤ 8

theorem AtRest.congr {s t : State} (h : AtRest s) (hcye : t.cye = s.cye) (hlif : t.lif = s.lif)
    (hcfg : t.rex.config = s.rex.config) : AtRest t := by
  obtain ⟨hset, hstate, hstart, hstop, hdead, hline, hslot, hstreak⟩ := h
  rw [← hcfg] at hset
  rw [← hlif] at hline
  rw [← hcye] at hstate hstart hstop hdead hslot hstreak
  exact ⟨hset, hstate, hstart, hstop, hdead, hline, hslot, hstreak⟩

theorem AtRest.engineInv {s : State} (h : AtRest s) : EngineInv s := by
  obtain ⟨hset, hstate, hstart, hstop, hdead, hline, hslot, hstreak⟩ := h
  simp [EngineInv, hset, hstate, hstart, hstop, hdead, hline, hslot, hstreak]

theorem EngineInv.deadline_none {s : State} (h : EngineInv s) (hs : s.cye.state ≠ .listening) :
    s.cye.deadline = none := by
  obtain ⟨-, -, -, hdead, -⟩ := h
  exact Option.not_isSome_iff_eq_none.mp (mt hdead.mp hs)

theorem EngineInv.slot_zero {s : State} (h : EngineInv s) (hs : inRun s = false) : s.cye.slot = 0 := by
  obtain ⟨-, -, -, -, -, -, -, hslot, -⟩ := h
  exact hslot hs

theorem EngineInv.streak_le {s : State} (h : EngineInv s) : s.cye.streak ≤ 8 := by
  obtain ⟨-, -, -, -, -, -, -, -, -, hstreak, -⟩ := h
  exact hstreak

theorem EngineInv.streak_lt {s : State} (h : EngineInv s) (hs : s.cye.state ≠ .stopped) :
    s.cye.streak < s.rex.config.faultStreak := by
  obtain ⟨-, -, -, -, -, -, -, -, -, -, hfault⟩ := h
  exact hfault hs

theorem EngineInv.atRest {s : State} (h : EngineInv s) (hs : s.cye.state = .stopped) : AtRest s :=
  have ⟨hset, _, _, _, _, _, hidle, _⟩ := h
  { settings := hset, state := hs, start := h.start_none (by rw [hs]; decide), stop := h.stop_none (by rw [hs]; decide),
    deadline := h.deadline_none (by rw [hs]; decide), line := hidle hs,
    slot := h.slot_zero (by rw [inRun, hs]; decide), streak := h.streak_le }

theorem faultStreak_bounds {c : Settings} (h : SettingsInRange c) : 1 ≤ c.faultStreak ∧ c.faultStreak ≤ 8 := by
  obtain ⟨-, -, -, -, -, -, hfault, -⟩ := h
  exact hfault

theorem inRun_iff {s : State} : inRun s = true ↔ s.cye.state ≠ .stopped ∧ s.cye.state ≠ .listening := by
  cases hs : s.cye.state <;> simp [inRun, hs]

/-- LIF sends and receives only in a run (R129). -/
theorem EngineInv.inRun_of_line {s : State} (h : EngineInv s) (hidle : s.lif.line ≠ .idle)
    (hwatch : s.lif.line ≠ .watch) : inRun s = true := by
  obtain ⟨-, -, -, -, hline, -, hrest, -⟩ := h
  exact inRun_iff.mpr ⟨fun hs => hidle (hrest hs), fun hs => hwatch (hline.mpr hs)⟩

/-- In a run the slot, the streak and the line may move, while the line is not watched and a cell being sent is one of the
segment's. -/
theorem EngineInv.move {s t : State} (h : EngineInv s) (hrun : inRun s = true)
    (hcye : t.cye = { s.cye with slot := t.cye.slot, streak := t.cye.streak })
    (hcfg : t.rex.config = s.rex.config) (hslot : t.cye.slot ≤ t.sbk.active.length)
    (hstreak : t.cye.streak < s.rex.config.faultStreak) (hwatch : t.lif.line ≠ .watch)
    (hcell : ∀ seg k x, t.lif.line = .send seg (.cells k x) → k < (segmentCells seg).length) : EngineInv t := by
  obtain ⟨hset, hstart, hstop, hdead, -⟩ := h
  have hstate : t.cye.state = s.cye.state := by rw [hcye]
  have hrun' : Machine.inRun t = true := by rw [Machine.inRun, hstate]; exact hrun
  obtain ⟨hnstop, hnlisten⟩ := inRun_iff.mp hrun'
  have hbound := faultStreak_bounds hset
  refine ⟨hcfg ▸ hset, ?_, ?_, ?_, ?_, hcell, ?_, ?_, hslot, by omega, fun _ => hcfg ▸ hstreak⟩
  · rw [hcye]; exact hstart
  · rw [hcye]; exact hstop
  · rw [hcye]; exact hdead
  · exact ⟨fun hw => absurd hw hwatch, fun hl => absurd hl hnlisten⟩
  · exact fun hs => absurd hs hnstop
  · exact fun hr => absurd (hrun'.symm.trans hr) (by decide)

/-- The beacon slot of a run with nothing pending (R4). -/
theorem engineInv_beginCycle {s : State} (cycle : Byte) (hset : SettingsInRange s.rex.config)
    (hstate : s.cye.state = .running) (hstart : s.cye.start = none) (hstop : s.cye.stop = none)
    (hdead : s.cye.deadline = none) (hstreak : s.cye.streak < s.rex.config.faultStreak) :
    EngineInv (beginCycle cycle s) := by
  have hbound := faultStreak_bounds hset
  have e := control_beginCycle cycle s
  have hcye : (beginCycle cycle s).cye = _ := congrArg Control.cye e
  have hlif : (beginCycle cycle s).lif = _ := congrArg Control.lif e
  have hrex : (beginCycle cycle s).rex = s.rex := congrArg Control.rex e
  simp only [EngineInv, inRun, hcye, hlif, hrex, hset, hstate, hstart, hstop, hdead, hstreak]
  simp
  omega

/-! ### The banks at a boundary (R32, R34) -/

theorem BankInv.swapped {s : State} (h : BankInv s) (hf : bankFault s.sbk.edit = none) {t : State}
    (ht : t.sbk = { active := s.sbk.edit, edit := s.sbk.edit, epoch := s.sbk.epoch + 1, edited := false,
                    commit := none }) : BankInv t := by
  obtain ⟨-, hedit, -⟩ := h
  simp [BankInv, ht, hedit, hf]

theorem BankInv.boundary {s t : State} (h : BankInv s) (ht : t.sbk = banksAfter s.sbk) : BankInv t := by
  unfold banksAfter at ht
  split at ht
  · rename_i hc
    have ⟨_, _, _, hcommit, _⟩ := h
    exact h.swapped (hcommit hc).2 ht
  · exact h.congr ht

theorem swapPending_sbk (s : State) : (swapPending s).sbk = banksAfter s.sbk := congrArg Control.sbk (control_swapPending s)
theorem swapPending_cye (s : State) : (swapPending s).cye = s.cye := congrArg Control.cye (control_swapPending s)
theorem swapPending_lif (s : State) : (swapPending s).lif = s.lif := congrArg Control.lif (control_swapPending s)
theorem swapPending_rex (s : State) : (swapPending s).rex = s.rex := congrArg Control.rex (control_swapPending s)

/-! ### Rules for taking a command -/

theorem engineSide_arbitrate (s : State) : engineSide (arbitrate s) = engineSide s :=
  engineSide_of_control (control_arbitrate s)

theorem EngineBankInv.ordinary {s t : State} (h : EngineBankInv s) (e : OrdinaryEffect s t) : EngineBankInv t := by
  rcases e with e | ⟨r, rest, -, f, e⟩
  · exact h.congr (engineSide_of_control e)
  · exact h.congr ((congrArg Control.engineSide e).trans rfl)

theorem engineBank_perform {change : Option State} {s t : State} (h : EngineBankInv s)
    (hu : ∀ u, change = some u → EngineBankInv u) (e : perform change s = .next t) : EngineBankInv t :=
  perform_keeps (fun u hu => hu.congr (engineSide_arbitrate u)) h hu e

theorem engineBank_performIf {p : Prop} [Decidable p] {v s t : State} (h : EngineBankInv s) (hv : p → EngineBankInv v)
    (e : perform (if p then some v else none) s = .next t) : EngineBankInv t := by
  refine engineBank_perform h (fun u hu => ?_) e
  split at hu <;> cases hu
  rename_i hp
  exact hv hp

theorem engineBank_request {kind tag : Byte} {body : List Byte} {owner : State → State} {s t : State}
    (h : EngineBankInv s) (ho : ∀ u, EngineBankInv u → EngineBankInv (owner u))
    (e : request kind tag body owner s = .next t) : EngineBankInv t := by
  rcases request_cases e with rfl | ⟨rest, -, rfl | rfl⟩
  · exact h
  · exact (ho { s with rex.inbox := rest } (h.congr rfl)).congr (engineSide_arbitrate _)
  · exact EngineBankInv.congr (h.congr rfl) (engineSide_arbitrate _)

theorem engineBank_takeEffect {scope : Scope} {effect : State → State} {s t : State} (h : EngineBankInv s)
    (hu : EngineBankInv (effect s)) (e : takeEffect scope effect s = .next t) : EngineBankInv t :=
  takeEffect_keeps (fun u hu => hu.congr (engineSide_arbitrate u)) h (fun _ => hu) e

/-! ### START, STOP and the listening interval (R9 to R11) -/

theorem engineBank_takeStart (tag : Byte) {s : State} (h : EngineBankInv s) : EngineBankInv (takeStart tag s) := by
  unfold takeStart
  split
  · rename_i hs
    obtain ⟨hset, -, -, hstop, -, -, hslot, -⟩ := h.1.atRest hs
    have hbound := faultStreak_bounds hset
    refine ⟨?_, h.2.congr rfl⟩
    simp [EngineInv, inRun, hset, hstop, hslot]
    omega
  all_goals exact h.congr rfl

/-- LISTENING ends without a run (R10, R11, R143). -/
theorem engineBank_endListening {s : State} (h : EngineBankInv s) (hs : s.cye.state = .listening) :
    EngineBankInv (endListening s) := by
  have ⟨hset, _⟩ := h.1
  have hrest : AtRest (endListening s) :=
    { settings := hset, state := rfl, start := rfl, stop := h.1.stop_none (by rw [hs]; decide), deadline := rfl, line := rfl,
      slot := h.1.slot_zero (by rw [inRun, hs]; decide), streak := h.1.streak_le }
  exact ⟨hrest.engineInv, h.2.congr rfl⟩

theorem engineSide_joinEither (a b : Option Frame) (s : State) : engineSide (joinEither a b s) = engineSide s := by
  simp [engineSide, Control.engineSide, control]

theorem engineBank_takeStop (tag : Byte) {s : State} (h : EngineBankInv s) : EngineBankInv (takeStop tag s) := by
  unfold takeStop
  split
  · exact h.congr rfl
  · rename_i hs
    have hl := engineBank_endListening h hs
    exact hl.congr (engineSide_joinEither (startReply s .cancelled) none (endListening s))
  · rename_i hs
    have ⟨hset, _, _, _, hline, hcell, _, _, hslot, hle, _⟩ := h.1
    refine ⟨?_, h.2.congr rfl⟩
    have hstart := h.1.start_none (by rw [hs]; decide)
    have hdead := h.1.deadline_none (by rw [hs]; decide)
    have hlt := h.1.streak_lt (by rw [hs]; decide)
    simp [hs] at hline
    simpa [EngineInv, inRun, hset, hstart, hdead, hslot, hle, hlt, hline] using hcell
  · exact h.congr rfl

/-- The listening expiry begins a run (R10). -/
theorem engineBank_beginRun {s : State} (h : EngineBankInv s) (hs : s.cye.state = .listening) :
    EngineBankInv (beginRun s) := by
  have ⟨hset, _⟩ := h.1
  have hstop := h.1.stop_none (by rw [hs]; decide)
  have hlt := h.1.streak_lt (by rw [hs]; decide)
  refine ⟨engineInv_beginCycle 0 ?_ ?_ ?_ ?_ ?_ ?_, h.2.boundary
    ((joinEither_sbk _ _ _).trans (swapPending_sbk _))⟩ <;> simp [swapPending_cye, swapPending_rex, hset, hstop, hlt]

/-! ### Slots, transmissions and the ends of cycles and runs (R3, R6 to R8, R12, R133, R134) -/

theorem completeStop_cye (s : State) :
    (completeStop s).cye = { s.cye with state := .stopped, slot := 0, stop := none } :=
  (joinEither_cye _ _ _).trans (swapPending_cye _)

theorem completeStop_lif (s : State) : (completeStop s).lif = { line := .idle } :=
  (joinEither_lif _ _ _).trans (swapPending_lif _)

theorem completeStop_rex (s : State) : (completeStop s).rex = s.rex :=
  (joinEither_rex _ _ _).trans (swapPending_rex _)

theorem completeStop_sbk (s : State) : (completeStop s).sbk = banksAfter s.sbk :=
  (joinEither_sbk _ _ _).trans (swapPending_sbk _)

/-- The stop completion, or its equal at a bus fault (R8, R12, R14). -/
theorem engineBank_completeStop {s : State} (hset : SettingsInRange s.rex.config) (hstart : s.cye.start = none)
    (hdead : s.cye.deadline = none) (hstreak : s.cye.streak ≤ 8) (hb : BankInv s) : EngineBankInv (completeStop s) := by
  have hcye := completeStop_cye s
  have hrest : AtRest (completeStop s) :=
    { settings := completeStop_rex s ▸ hset, state := congrArg Cye.state hcye,
      start := (congrArg Cye.start hcye).trans hstart, stop := congrArg Cye.stop hcye,
      deadline := (congrArg Cye.deadline hcye).trans hdead, line := congrArg Lif.line (completeStop_lif s),
      slot := congrArg Cye.slot hcye, streak := (congrArg Cye.streak hcye).trans_le hstreak }
  exact ⟨hrest.engineInv, hb.boundary (completeStop_sbk s)⟩

theorem engineBank_endCycle {s : State} (h : EngineBankInv s) (hs : s.cye.state = .running) :
    EngineBankInv (endCycle s) := by
  have hp := control_evaluatePresence s
  unfold endCycle
  generalize evaluatePresence s = t at hp ⊢
  have hstate : t.cye.state = .running := (congrArg (fun c : Control => c.cye.state) hp).trans hs
  have ht := h.congr (engineSide_of_control hp)
  have ⟨hset, _⟩ := ht.1
  have hstart := ht.1.start_none (by rw [hstate]; decide)
  have hstop := ht.1.stop_none (by rw [hstate]; decide)
  have hdead := ht.1.deadline_none (by rw [hstate]; decide)
  have hlt := ht.1.streak_lt (by rw [hstate]; decide)
  refine ⟨engineInv_beginCycle _ ?_ ?_ ?_ ?_ ?_ ?_, ht.2.boundary
    ((joinEither_sbk _ _ _).trans (swapPending_sbk _))⟩ <;>
    simp [swapPending_cye, swapPending_rex, hstate, hset, hstart, hstop, hdead, hlt]

theorem engineBank_abortSegment (seg : Segment) {s : State} (h : EngineBankInv s) (hrun : inRun s = true) :
    EngineBankInv (abortSegment seg s) := by
  have ⟨hset, _, _, _, _, _, _, _, hslot, _⟩ := h.1
  obtain ⟨hnstop, hnlisten⟩ := inRun_iff.mp hrun
  have hlt := h.1.streak_lt hnstop
  have hbound := faultStreak_bounds hset
  simp only [abortSegment]
  split
  · refine engineBank_completeStop ?_ ?_ ?_ ?_ (h.2.congr ?_) <;> simp only [offer_rex, offer_cye, offer_sbk]
    · exact hset
    · exact h.1.start_none hnlisten
    · exact h.1.deadline_none hnlisten
    · exact Nat.le_trans hlt hbound.2
    · rfl
  · rename_i hne
    refine ⟨h.1.move hrun rfl rfl hslot (Nat.lt_of_le_of_ne hlt hne) ?_ ?_, h.2.congr rfl⟩
    · exact fun hw => by cases hw
    · exact fun _ _ _ hl => by cases hl

/-- A state that differs in the control part by the line alone, with a line that a run allows (R129). -/
theorem EngineBankInv.line {s t : State} {line : LineState} (h : EngineBankInv s) (hrun : inRun s = true)
    (e : control t = { control s with lif := { line := line } }) (hwatch : line ≠ .watch)
    (hcell : ∀ seg k x, line = .send seg (.cells k x) → k < (segmentCells seg).length) : EngineBankInv t := by
  have ⟨_, _, _, _, _, _, _, _, hslot, _⟩ := h.1
  have hcye : t.cye = s.cye := congrArg Control.cye e
  have hsbk : t.sbk = s.sbk := congrArg Control.sbk e
  have hrex : t.rex = s.rex := congrArg Control.rex e
  have hlif : t.lif.line = line := congrArg (fun c : Control => c.lif.line) e
  refine ⟨h.1.move hrun ?_ ?_ ?_ ?_ ?_ ?_, h.2.congr hsbk⟩
  · rw [hcye]
  · rw [hrex]
  · rw [hcye, hsbk]; exact hslot
  · rw [hcye]; exact h.1.streak_lt (inRun_iff.mp hrun).1
  · rw [hlif]; exact hwatch
  · rw [hlif]; exact hcell

/-- A slot start moves to the next slot of the cycle (R3, R6). -/
theorem engineBank_startSlot {s : State} (h : EngineBankInv s) (hrun : inRun s = true)
    (hslot : s.cye.slot < s.sbk.active.length) : EngineBankInv (startSlot s) := by
  have ⟨_, _, _, _, hline, hcell, _⟩ := h.1
  obtain ⟨hnstop, hnlisten⟩ := inRun_iff.mp hrun
  have hnext : EngineBankInv { s with cye.slot := s.cye.slot + 1 } :=
    ⟨h.1.move hrun rfl rfl hslot (h.1.streak_lt hnstop) (fun hw => hnlisten (hline.mp hw)) hcell, h.2.congr rfl⟩
  simp only [startSlot]
  split
  · exact hnext.line hrun (line := .idle) rfl (fun hw => by cases hw) (fun _ _ _ hl => by cases hl)
  · rcases idlesOrSends_downSlot (entryAt s.sbk.active s.cye.slot).owner
      { s with cye.slot := s.cye.slot + 1 } with e | ⟨seg, e⟩ <;>
      exact hnext.line hrun e (fun hw => by cases hw) (fun _ _ _ hl => by cases hl)
  · exact hnext.line hrun (line := .receive .up (.wait [])) rfl (fun hw => by cases hw) (fun _ _ _ hl => by cases hl)
  · exact hnext.line hrun (line := .receive .admission (.wait [])) rfl (fun hw => by cases hw)
      (fun _ _ _ hl => by cases hl)

/-- A transmission that completes clears the streak (R12, R133). -/
theorem engineBank_transmissionCompleted {s : State} {seg : Segment} {phase : SendPhase} (h : EngineBankInv s)
    (hl : s.lif.line = .send seg phase) :
    EngineBankInv (countGlobal .transmissionsCompleted { s with lif.line := .idle, cye.streak := 0 }) := by
  have ⟨hset, _, _, _, _, _, _, _, hslot, _⟩ := h.1
  have hrun := h.1.inRun_of_line (by rw [hl]; simp) (by rw [hl]; simp)
  exact ⟨h.1.move hrun rfl rfl hslot (faultStreak_bounds hset).1 (fun hw => by cases hw) (fun _ _ _ hl => by cases hl),
    h.2.congr rfl⟩

theorem control_settle (slot : RxSlot) (r : Reception) (s : State) : control (settle slot r s) = { control s with
    lif := { line := if r.atClose then .idle else .receive slot (.settled r) } } := by
  simp only [settle]
  split <;> rfl

/-- A report of a receive part moves the line within RECEIVE, or to IDLE (R129, R142). -/
theorem engineBank_takeReport {slot : RxSlot} {edges : List Edge} {upTo : Nat} {judge : RxClass → State → State}
    {s u : State} (hj : ∀ cls v, control (judge cls v) = control v) (h : EngineBankInv s)
    (e : takeReport slot edges upTo judge s = some u) : EngineBankInv u := by
  rcases takeReport_cases slot edges upTo judge s with hn | ⟨phase, hl, -, hr⟩
  · cases hn.symm.trans e
  · have hrun := h.1.inRun_of_line (by rw [hl]; simp) (by rw [hl]; simp)
    rcases hr with ⟨r, -, hr⟩ | ⟨-, hr⟩
    · cases hr.symm.trans e
      refine h.line hrun ((hj _ _).trans (control_settle slot r s)) ?_ ?_
      · split <;> simp
      · split <;> simp
    · cases hr.symm.trans e
      exact h.line hrun (line := .receive slot (hear edges upTo phase)) rfl (fun hw => by cases hw)
        (fun _ _ _ hl => by cases hl)

theorem segmentCells_length_pos (seg : Segment) : 0 < (segmentCells seg).length := by
  simp [segmentCells, preambleCells]

/-- The cell that follows one of a segment's cells is one of them too (R133). -/
theorem nextSendPhase_cell {n k : Nat} {x : Bool} {phase : SendPhase} (hn : 0 < n)
    (hp : ∀ j y, phase = .cells j y → j < n) (e : nextSendPhase n phase = .cells k x) : k < n := by
  cases phase with
  | lead => cases e; exact hn
  | lag => cases e
  | cells j y =>
    cases y with
    | false => cases e; exact hp _ _ rfl
    | true =>
      simp only [nextSendPhase] at e
      split at e <;> cases e
      assumption

/-- A tick moves the line alone (R129, R133, R142). -/
theorem engineBank_tick {s : State} (h : EngineBankInv s) : EngineBankInv (tick s) := by
  unfold tick
  split
  · exact h
  · cases hl : s.lif.line with
    | idle => exact h.congr (by simp [tickLine, engineSide, Control.engineSide, control, ← hl])
    | watch => exact h.congr (by simp [tickLine, engineSide, Control.engineSide, control, ← hl])
    | send seg phase =>
      have ⟨_, _, _, _, _, hcell, _⟩ := h.1
      refine h.line (line := tickLine (.send seg phase)) (h.1.inRun_of_line (by rw [hl]; simp) (by rw [hl]; simp)) rfl
        (fun hw => by cases hw) (fun seg' k x e => ?_)
      injection e with hseg hphase
      subst hseg
      exact nextSendPhase_cell (segmentCells_length_pos seg) (fun j y hy => hcell seg j y (hy ▸ hl)) hphase
    | receive slot phase =>
      refine h.line (line := tickLine (.receive slot phase)) (h.1.inRun_of_line (by rw [hl]; simp) (by rw [hl]; simp)) rfl
        ?_ ?_ <;> unfold tickLine <;> dsimp only <;> split <;> simp

/-! ### Settings and banks by request (R23, R26, R171) -/

theorem settingsOf_inRange {body : List Byte} {c : Settings} (h : settingsOf body = some c) : SettingsInRange c := by
  simp only [settingsOf] at h
  split at h
  · rename_i hr
    cases h
    obtain ⟨h0, h1, h2, h3, h4, h5, h6, -, h8⟩ := hr
    exact ⟨h0, h1, h2, h3, h4, h5, h6, h8, Nat.le_of_lt_succ (byteAt body 8).isLt⟩
  · cases h

theorem engineSide_applySettings (c : Settings) (s : State) :
    engineSide (applySettings c s) = { engineSide s with config := c } := by
  unfold applySettings changeAttnMode
  split <;> rfl

/-- New settings come while the engine is stopped, and in their ranges (R171). -/
theorem engineBank_takeConfigure (tag : Byte) (body : List Byte) {s : State} (h : EngineBankInv s) :
    EngineBankInv (takeConfigure tag body s) := by
  unfold takeConfigure
  split
  · rename_i hs
    split
    · rename_i c hc
      have hrest : AtRest { s with rex.config := c } := { h.1.atRest hs with settings := settingsOf_inRange hc }
      have hnew : EngineBankInv { s with rex.config := c } := ⟨hrest.engineInv, h.2.congr rfl⟩
      exact hnew.congr (engineSide_applySettings c s)
    · exact h.congr rfl
  · exact h.congr rfl

theorem engineBank_takeSchedEdit (tag : Byte) (body : List Byte) {s : State} (h : EngineBankInv s) :
    EngineBankInv (takeSchedEdit tag body s) := by
  simp only [takeSchedEdit]
  split
  · exact h.congr rfl
  · rename_i hcommit
    split
    · rename_i es _
      split
      · rename_i hfit
        obtain ⟨-, -, -, hlen, -⟩ := hfit
        obtain ⟨hactive, hedit, hfault, -⟩ := h.2
        refine ⟨h.1.congr rfl rfl rfl rfl, hactive, ?_, hfault, fun hc => absurd hc hcommit, fun hf => by cases hf⟩
        simp only [newLengthFits, decide_eq_true_eq] at hlen
        change 4 ≤ (if _ then _ else _) ∧ (if _ then _ else _) ≤ 60
        split <;> omega
      · exact h.congr rfl
    · exact h.congr rfl

theorem engineBank_takeSchedCommit (tag : Byte) {s : State} (h : EngineBankInv s) :
    EngineBankInv (takeSchedCommit tag s) := by
  unfold takeSchedCommit
  split
  · exact h.congr rfl
  · split
    · exact h.congr rfl
    · rename_i hedited
      split
      · exact h.congr rfl
      · rename_i hfault
        split
        · rename_i hs
          have e := control_swap s
          have hrest : AtRest (swap s) := (h.1.atRest hs).congr (congrArg Control.cye e) (congrArg Control.lif e)
            (congrArg (fun c : Control => c.rex.config) e)
          have hswap : EngineBankInv (swap s) := ⟨hrest.engineInv, h.2.swapped hfault (congrArg Control.sbk e)⟩
          exact hswap.congr rfl
        · obtain ⟨hactive, hedit, hactiveFault, -⟩ := h.2
          have hedited' : s.sbk.edited = true := by simpa using hedited
          exact ⟨h.1.congr rfl rfl rfl rfl, hactive, hedit, hactiveFault, fun _ => ⟨hedited', hfault⟩,
            fun hf => absurd (hedited'.symm.trans hf) (by decide)⟩

/-! ### The link and the transmitter (R156, R158, R163) -/

theorem engineSide_refuse (f : Frame) (made dropped : Option GlobalCounter) (s : State) :
    engineSide (refuse f made dropped s) = engineSide s := by
  unfold refuse
  split
  · cases made <;> rfl
  · cases dropped <;> rfl

theorem engineSide_acceptFrame (r : Request) (s : State) : engineSide (acceptFrame r s) = engineSide s := by
  unfold acceptFrame
  split
  · rfl
  · exact engineSide_refuse _ _ _ s

theorem engineSide_frameSent (src : TxSource) (s : State) : engineSide (frameSent src s) = engineSide s := by
  cases src with
  | startUp => rfl
  | reply =>
    simp only [frameSent, replySent]
    (repeat' split) <;> rfl
  | notice =>
    simp only [frameSent, noticeSent, attnOnLeave]
    (repeat' split) <;> rfl
  | overflow =>
    simp only [frameSent, overflowSent, attnOnLeave]
    (repeat' split) <;> rfl

/-! ### Resets (R16 to R19) -/

theorem bankFault_default : bankFault Bank.default = none := by decide +kernel

theorem settingsInRange_defaults : SettingsInRange Settings.defaults := by
  unfold SettingsInRange
  decide

theorem engineBank_resetBlocks (hlk : Hlk) (startUp : Option Cause) (low : Bool) (s : State) :
    EngineBankInv (resetBlocks hlk startUp low s) := by
  have hrest : AtRest (resetBlocks hlk startUp low s) :=
    { settings := settingsInRange_defaults, state := rfl, start := rfl, stop := rfl, deadline := rfl, line := rfl, slot := rfl,
      streak := Nat.zero_le _ }
  have hlen : 4 ≤ Bank.default.length ∧ Bank.default.length ≤ 60 := by decide
  exact ⟨hrest.engineInv, hlen, hlen, bankFault_default, (fun hc => by cases hc), fun _ => rfl⟩

theorem engineBank_busReset {s t : State} (h : EngineBankInv s) (e : execBusReset s = .next t) : EngineBankInv t := by
  have ⟨hset, _⟩ := h.1
  have hrest : AtRest (busResetBlocks s) :=
    { settings := hset, state := rfl, start := rfl, stop := rfl, deadline := rfl, line := rfl, slot := rfl,
      streak := Nat.zero_le _ }
  obtain ⟨hactive, hedit, hfault, -, hclean⟩ := h.2
  have hbus : EngineBankInv (busResetBlocks s) :=
    ⟨hrest.engineInv, hactive, hedit, hfault, (fun hc => by cases hc), hclean⟩
  refine engineBank_takeEffect h ?_ e
  exact hbus.congr (engineSide_joinEither _ _ _)

/-- A LINK reset marks the deferred records forgotten and keeps them pending (R19). -/
theorem engineBank_linkReset {s t : State} (h : EngineBankInv s) (e : execLinkReset s = .next t) : EngineBankInv t := by
  refine engineBank_takeEffect h ?_ e
  obtain ⟨he, hb⟩ := h
  simpa [EngineBankInv, EngineInv, BankInv, inRun, forget] using And.intro he hb

/-! ### Every command and every step -/

theorem engineBank_exec {c : Instr} {s t : State} (h : EngineBankInv s) (e : exec c s = .next t) :
    EngineBankInv t := by
  cases c with
  | powerOn | pinReset =>
    cases e
    exact (engineBank_resetBlocks ..).congr (engineSide_arbitrate _)
  | resetnLow n =>
    change execResetnLow s n = .next t at e
    unfold execResetnLow at e
    split at e <;> cases e
    · exact engineBank_resetBlocks ..
    · exact h
  | configure tag body => exact engineBank_request h (fun u hu => engineBank_takeConfigure tag body hu) e
  | reset tag body =>
    refine engineBank_request h (fun u hu => hu.congr ?_) e
    unfold takeReset
    split <;> rfl
  | start tag body => exact engineBank_request h (fun u hu => engineBank_takeStart tag hu) e
  | stop tag body => exact engineBank_request h (fun u hu => engineBank_takeStop tag hu) e
  | schedEdit tag body => exact engineBank_request h (fun u hu => engineBank_takeSchedEdit tag body hu) e
  | schedCommit tag body => exact engineBank_request h (fun u hu => engineBank_takeSchedCommit tag hu) e
  | goodFrame b =>
    refine engineBank_perform h (fun u hu => ?_) e
    split at hu <;> cases hu
    exact h.congr (engineSide_acceptFrame _ _)
  | checkError b =>
    refine engineBank_perform h (fun u hu => ?_) e
    split at hu <;> cases hu
    exact h.congr (engineSide_refuse _ _ _ _)
  | frameSent =>
    refine engineBank_perform h (fun u hu => ?_) e
    obtain ⟨f, -, rfl⟩ := Option.map_eq_some_iff.mp hu
    exact h.congr (engineSide_frameSent _ _)
  | fullReset => exact engineBank_takeEffect h (engineBank_resetBlocks ..) e
  | busReset => exact engineBank_busReset h e
  | linkReset => exact engineBank_linkReset h e
  | listeningExpiry => exact engineBank_performIf h (engineBank_beginRun h) e
  | carrier =>
    refine engineBank_performIf h (fun hs => ?_) e
    exact (engineBank_endListening h hs).congr (engineSide_joinEither _ _ _)
  | slotStart => exact engineBank_performIf h (fun ⟨hrun, _, hslot⟩ => engineBank_startSlot h hrun hslot) e
  | transmissionCompleted =>
    refine engineBank_perform h (fun u hu => ?_) e
    split at hu <;> cases hu
    exact engineBank_transmissionCompleted h ‹_›
  | echoMismatch cell second level =>
    refine engineBank_perform h (fun u hu => ?_) e
    split at hu
    · rename_i hl
      split at hu <;> cases hu
      exact engineBank_abortSegment _ h (h.1.inRun_of_line (by rw [hl]; simp) (by rw [hl]; simp))
    all_goals cases hu
  | cycleEnd => exact engineBank_performIf h (fun ⟨hs, _⟩ => engineBank_endCycle h hs) e
  | stopCompletion =>
    refine engineBank_performIf h (fun ⟨hs, _⟩ => ?_) e
    have ⟨hset, _⟩ := h.1
    exact engineBank_completeStop hset (h.1.start_none (by rw [hs]; decide)) (h.1.deadline_none (by rw [hs]; decide))
      h.1.streak_le h.2
  | upSlotReport edges upTo =>
    exact engineBank_perform h (fun u hu => engineBank_takeReport (control_judgeUpSlot _) h hu) e
  | admitSlotReport edges upTo =>
    exact engineBank_perform h (fun u hu => engineBank_takeReport control_resolveAdmit h hu) e
  | _ => exact h.ordinary (exec_ordinary rfl e)

/-- Settles O57: each command either leaves the engine side as it is, moves the line and the slot within a run, or passes
through one of the engine's boundaries, where the engine is at rest or begins a cycle. -/
theorem stepsKeepTheEngineAndTheBanks : Obligations.StepsKeepTheEngineAndTheBanks := by
  intro s t he hb e
  unfold step at e
  split at e
  · rename_i c rest _
    exact engineBank_exec (s := { s with pending := rest }) ⟨he, hb⟩ e
  · cases e
    exact engineBank_tick ⟨he, hb⟩

end Sys2Proof.Machine
end

section
/-! What the Cycle Engine does, in the terms of the claims: deferred replies, the beacon, START and STOP, the ends of
transmissions, cycles and runs (R3 to R15, R32). -/

namespace Sys2Proof.Machine

-- One proof after another, not in parallel: the whole text compiles under a bound on memory.
set_option Elab.async false

/-! ### Deferred replies -/

/-- The deferred reply of a record is the one the claims say it is owed. -/
theorem deferredFrame_owedReply (d : Option Deferred) (kind : Byte) (st : Status) (items : List Byte) :
    (deferredFrame d kind st items).toList.map (fun f => ({ frame := f, place := .request } : Reply)) =
      owedReply d (replyKind kind) (statusCode st :: items) := by
  cases d with
  | none => rfl
  | some r => cases hf : r.forgotten <;> simp [deferredFrame, owedReply, replyFrame, hf]

/-- A single deferred reply joins at the tail, and nothing else changes (R15, R32). -/
theorem joinEither_deferred (d : Option Deferred) (kind : Byte) (st : Status) (items : List Byte) (s : State) :
    joinEither (deferredFrame d kind st items) none s =
      { s with ntq.replies := s.ntq.replies ++ owedReply d (replyKind kind) (statusCode st :: items) } := by
  rw [← deferredFrame_owedReply]
  cases deferredFrame d kind st items <;> simp [joinEither, joinReplies]

theorem joinEither_none_left (a : Option Frame) (s : State) : joinEither none a s = joinEither a none s := by
  cases a <;> rfl

/-- Two deferred replies join in one order or the other (R32; log 5). -/
theorem joinEither_two_deferred (d d' : Option Deferred) (k k' : Byte) (st st' : Status) (items items' : List Byte)
    (s : State) :
    let t := joinEither (deferredFrame d k st items) (deferredFrame d' k' st' items') s
    t.ntq.replies = s.ntq.replies ++ owedReply d (replyKind k) (statusCode st :: items) ++
        owedReply d' (replyKind k') (statusCode st' :: items') ∨
    t.ntq.replies = s.ntq.replies ++ owedReply d' (replyKind k') (statusCode st' :: items') ++
        owedReply d (replyKind k) (statusCode st :: items) := by
  intro t
  simpa only [deferredFrame_owedReply] using
    joinEither_replies (deferredFrame d k st items) (deferredFrame d' k' st' items') s

/-- Deferred replies change the reply queue and the count of choices, and nothing else (R32). -/
theorem joinEither_rest (a b : Option Frame) (s : State) :
    ({ joinEither a b s with ntq := s.ntq, choices := s.choices } : State) = s := by
  unfold joinEither
  (repeat' split) <;> rfl

theorem joinEither_ntq (a b : Option Frame) (s : State) :
    ({ (joinEither a b s).ntq with replies := s.ntq.replies } : Ntq) = s.ntq := by
  unfold joinEither
  (repeat' split) <;> rfl

/-! ### The swap and the end of a run (R14, R34, R36) -/

theorem onStation_rest (a : Nat) (f : Station → Station) (s : State) (stt : Stt) :
    ({ onStation a f s with stt := stt } : State) = { s with stt := stt } := by
  unfold onStation setStation
  (repeat' split) <;> rfl

/-- A swap's rewinds change station records and the broadcast record, and nothing else (R36). -/
theorem rewindUnscheduled_rest (s : State) (stt : Stt) (dlv : Dlv) :
    ({ rewindUnscheduled s with stt := stt, dlv := dlv } : State) = { s with stt := stt, dlv := dlv } := by
  have hfold : ∀ (b : Bank) (as : List Nat) (t : State),
      ({ as.foldl (fun t a => if ownsDown b a then t else onStation a rewindStation t) t with stt := stt } : State) =
        { t with stt := stt } := by
    intro b as
    induction as with
    | nil => exact fun _ => rfl
    | cons a as ih =>
      intro t
      rw [List.foldl_cons, ih]
      split
      · rfl
      · exact onStation_rest a _ t stt
  have h := congrArg (fun t : State => { t with dlv := dlv }) (hfold s.sbk.active (List.range' 1 30) s)
  simp only [rewindUnscheduled]
  split <;> exact h

/-- A boundary changes the banks, station records and the broadcast record, and nothing else (R32). -/
theorem swapPending_rest (s : State) (sbk : Sbk) (stt : Stt) (dlv : Dlv) :
    ({ swapPending s with sbk := sbk, stt := stt, dlv := dlv } : State) = { s with sbk := sbk, stt := stt, dlv := dlv } := by
  unfold swapPending
  split
  · exact congrArg (fun t : State => { t with sbk := sbk }) (rewindUnscheduled_rest _ stt dlv)
  · rfl

/-- What does not read the banks, the records and DLV's own state reads the same after a boundary. -/
theorem swapPending_field {α : Type} {f : State → α}
    (hf : ∀ t sbk stt dlv, f { t with sbk := sbk, stt := stt, dlv := dlv } = f t) (s : State) :
    f (swapPending s) = f s := by
  have h := congrArg f (swapPending_rest s s.sbk s.stt s.dlv)
  exact (hf _ _ _ _).symm.trans h

theorem swapPending_adm (s : State) : (swapPending s).adm = s.adm := swapPending_field (fun _ _ _ _ => rfl) s
theorem swapPending_mpl (s : State) : (swapPending s).mpl = s.mpl := swapPending_field (fun _ _ _ _ => rfl) s
theorem swapPending_ulr (s : State) : (swapPending s).ulr = s.ulr := swapPending_field (fun _ _ _ _ => rfl) s
theorem swapPending_hlk (s : State) : (swapPending s).hlk = s.hlk := swapPending_field (fun _ _ _ _ => rfl) s
theorem swapPending_ntq (s : State) : (swapPending s).ntq = s.ntq := swapPending_field (fun _ _ _ _ => rfl) s
theorem swapPending_counters (s : State) : (swapPending s).counters = s.counters :=
  swapPending_field (fun _ _ _ _ => rfl) s
theorem swapPending_resetLow (s : State) : (swapPending s).resetLow = s.resetLow :=
  swapPending_field (fun _ _ _ _ => rfl) s
theorem swapPending_choices (s : State) : (swapPending s).choices = s.choices :=
  swapPending_field (fun _ _ _ _ => rfl) s

/-- Every in-flight message stands at its beginning, as R14 and R36 leave it. -/
def Rewound (s : State) : Prop :=
  (∀ a, (station a s).map rewindStation = station a s) ∧ (rewindBroadcast s).dlv = s.dlv

theorem Rewound.congr {s t : State} (h : Rewound s) (hst : ∀ a, station a t = station a s) (hdlv : t.dlv = s.dlv) :
    Rewound t := by
  obtain ⟨hstations, hbroadcast⟩ := h
  refine ⟨fun a => by rw [hst, hstations], ?_⟩
  simp only [rewindBroadcast, hdlv] at hbroadcast ⊢
  exact hbroadcast

/-- Where every in-flight message is rewound, a rewind leaves the records as they are (R36, R96). -/
theorem Rewound.onStation {s : State} (h : Rewound s) (a b : Nat) :
    station b (onStation a rewindStation s) = station b s := by
  by_cases hab : b = a
  · subst hab
    rw [station_onStation_same, h.1]
  · exact station_onStation_other rewindStation s hab

theorem Rewound.rewindUnscheduled {s : State} (h : Rewound s) :
    (∀ a, station a (rewindUnscheduled s) = station a s) ∧
      (rewindUnscheduled s).stt.strangers = s.stt.strangers ∧ (rewindUnscheduled s).dlv = s.dlv := by
  have hfold : ∀ (bank : Bank) (as : List Nat) (t : State), Rewound t →
      let u := as.foldl (fun t a => if ownsDown bank a then t else Machine.onStation a rewindStation t) t
      (∀ a, station a u = station a t) ∧ u.stt.strangers = t.stt.strangers ∧ u.dlv = t.dlv := by
    intro bank as
    induction as with
    | nil => exact fun t _ => ⟨fun _ => rfl, rfl, rfl⟩
    | cons a as ih =>
      intro t ht
      simp only [List.foldl_cons]
      split
      · exact ih t ht
      · have hsame := ht.onStation a
        have hdlv := onStation_dlv a rewindStation t
        obtain ⟨hst, hstr, hd⟩ := ih _ (ht.congr hsame hdlv)
        exact ⟨fun b => (hst b).trans (hsame b), hstr.trans (onStation_strangers a rewindStation t), hd.trans hdlv⟩
  obtain ⟨hst, hstr, hd⟩ := hfold s.sbk.active (List.range' 1 30) s h
  simp only [Machine.rewindUnscheduled]
  split
  · exact ⟨hst, hstr, hd⟩
  · refine ⟨hst, hstr, ?_⟩
    simp only [rewindBroadcast, hd]
    exact h.2

theorem Rewound.swapPending {s : State} (h : Rewound s) :
    (∀ a, station a (swapPending s) = station a s) ∧ (swapPending s).stt.strangers = s.stt.strangers ∧
      (swapPending s).dlv = s.dlv := by
  unfold Machine.swapPending
  split
  · exact Rewound.rewindUnscheduled (s := { s with
      sbk := { active := s.sbk.edit, edit := s.sbk.edit, epoch := s.sbk.epoch + 1, edited := false, commit := none } }) h
  · exact ⟨fun _ => rfl, rfl, rfl⟩

theorem station_leaveRun (a : Nat) (s : State) : station a (leaveRun s) = (station a s).map leaveRunRecord :=
  (station_onStations a leaveRunRecord (returnContexts s)).trans rfl

theorem rewound_leaveRun (s : State) : Rewound (leaveRun s) := by
  refine ⟨fun a => ?_, ?_⟩
  · rw [station_leaveRun, Option.map_map]
    congr 1
    funext st
    simp only [Function.comp, leaveRunRecord]
    split <;> simp [rewindStation, Function.comp_def, freshInFlight]
  · simp [leaveRun, rewindBroadcast, Function.comp_def, freshBroadcast, onStations, returnContexts]

/-- Leaving a run, in the terms of the claims (R14, R122). -/
theorem runEnded_leaveRun (s : State) : RunEnded s (leaveRun s) := by
  refine ⟨fun a => ?_, rfl, rfl, rfl, rfl, rfl⟩
  rw [station_leaveRun]
  congr 1
  funext st
  unfold leaveRunRecord
  cases hp : st.presence <;> simp [rewindStation]

theorem RunEnded.congr {s s' t t' : State} (h : RunEnded s t)
    (hs : s'.stt = s.stt ∧ s'.dlv = s.dlv ∧ s'.ulr = s.ulr ∧ s'.mpl = s.mpl)
    (hst : ∀ a, station a t' = station a t) (hstr : t'.stt.strangers = t.stt.strangers) (hdlv : t'.dlv = t.dlv)
    (hulr : t'.ulr = t.ulr) (hadm : t'.adm = t.adm) (hmpl : t'.mpl = t.mpl) : RunEnded s' t' := by
  obtain ⟨hs1, hs2, hs3, hs4⟩ := hs
  have hsame : ∀ a, station a s' = station a s := fun a => station_congr (by rw [hs1])
  have hopen : openContexts s' = openContexts s := by rw [openContexts, hs1]; rfl
  obtain ⟨h1, h2, h3, h4, h5, h6⟩ := h
  refine ⟨fun a => ?_, ?_, ?_, ?_, ?_, ?_⟩
  · rw [hst, hsame, h1]
  · rw [hstr, hs1, h2]
  · rw [hdlv, hs2, h3]
  · rw [hulr, hs3, h4]
  · rw [hadm, h5]
  · rw [hmpl, hopen, hs4, h6]

/-- The stop completion, and its equal at a bus fault, in the terms of the claims (R8, R12, R14). -/
theorem runEnded_completeStop (s : State) : RunEnded s (completeStop s) := by
  let t := leaveRun { s with cye.state := .stopped, cye.slot := 0, cye.stop := none, lif.line := .idle }
  obtain ⟨hst, hstr, hdlv⟩ := (rewound_leaveRun _ : Rewound t).swapPending
  refine (runEnded_leaveRun _ : RunEnded _ t).congr ⟨rfl, rfl, rfl, rfl⟩ (fun a => ?_) ?_ ?_ ?_ ?_ ?_
  · exact (station_congr (congrArg Stt.records (joinEither_stt _ _ _))).trans (hst a)
  · exact (congrArg Stt.strangers (joinEither_stt _ _ _)).trans hstr
  · exact (joinEither_dlv _ _ _).trans hdlv
  · exact (joinEither_ulr _ _ _).trans (swapPending_ulr t)
  · exact (joinEither_adm _ _ _).trans (swapPending_adm t)
  · exact (joinEither_mpl _ _ _).trans (swapPending_mpl t)

theorem completeStop_hlk (s : State) : (completeStop s).hlk = s.hlk :=
  (joinEither_hlk _ _ _).trans (swapPending_hlk _)

theorem completeStop_counters (s : State) : (completeStop s).counters = s.counters :=
  (joinEither_counters _ _ _).trans (swapPending_counters _)

theorem completeStop_resetLow (s : State) : (completeStop s).resetLow = s.resetLow :=
  (joinEither_resetLow _ _ _).trans (swapPending_resetLow _)

theorem completeStop_ntq (s : State) : ({ (completeStop s).ntq with replies := s.ntq.replies } : Ntq) = s.ntq := by
  let t := leaveRun { s with cye.state := .stopped, cye.slot := 0, cye.stop := none, lif.line := .idle }
  have hntq : (swapPending t).ntq = s.ntq := swapPending_ntq t
  have h := joinEither_ntq (stopReply s .ok) (commitReply s) (swapPending t)
  rw [hntq] at h
  exact h

/-- STOP and COMMIT are answered in either order (R8, R32). -/
theorem completeStop_replies (s : State) :
    (completeStop s).ntq.replies = s.ntq.replies ++ owedReply s.cye.stop 0x86 [0x00] ++
        owedReply s.sbk.commit 0x89 [0x00, s.sbk.epoch + 1] ∨
    (completeStop s).ntq.replies = s.ntq.replies ++ owedReply s.sbk.commit 0x89 [0x00, s.sbk.epoch + 1] ++
        owedReply s.cye.stop 0x86 [0x00] := by
  let t := leaveRun { s with cye.state := .stopped, cye.slot := 0, cye.stop := none, lif.line := .idle }
  have hntq : (swapPending t).ntq = s.ntq := swapPending_ntq t
  have h := joinEither_two_deferred s.cye.stop s.sbk.commit kindStop kindSchedCommit .ok .ok [] [s.sbk.epoch + 1]
    (swapPending t)
  rw [hntq] at h
  exact h

/-! ### START and STOP (R9, R11) -/

/-- A request whose body suits it goes to its owner (R165). -/
theorem request_suits {kind tag : Byte} {body : List Byte} {rest : List Request} {s : State} (owner : State → State)
    (h : CanTake ⟨kind, tag, body⟩ rest s) (hl : lengthSuits kind body = true) :
    request kind tag body owner s = .next (arbitrate (owner { s with rex.inbox := rest })) := by
  rw [request_canTake owner h, if_pos hl]

/-- A listening interval that ends without a run, with its START answered (R10, R11). -/
theorem joinEither_endListening (st : Status) (s u : State) :
    joinEither (startReply s st) none u =
      { u with ntq.replies := u.ntq.replies ++ owedReply s.cye.start 0x85 [statusCode st] } :=
  joinEither_deferred s.cye.start kindStart st [] u

/-- Settles O10: START and STOP each by the four states of the engine. -/
theorem startAndStopByEngineState : Obligations.StartAndStopByEngineState := by
  refine ⟨fun tag rest s h => ?_, fun tag rest s h => ?_⟩
  · have e : exec (.start tag []) s = .next (arbitrate (takeStart tag { s with rex.inbox := rest })) :=
      request_suits (takeStart tag) h rfl
    rw [e]
    refine ⟨fun hs => ?_, fun hs => ?_, fun hs => ?_⟩
    · simp only [takeStart, hs]
      rfl
    · simp only [takeStart, hs]
      rfl
    · rcases hs with hs | hs <;> simp only [takeStart, hs] <;> rfl
  · have e : exec (.stop tag []) s = .next (arbitrate (takeStop tag { s with rex.inbox := rest })) :=
      request_suits (takeStop tag) h rfl
    rw [e]
    refine ⟨fun hs => ?_, fun hs => ?_, fun hs => ?_, fun hs => ?_⟩
    · simp only [takeStop, hs]
      rfl
    · simp only [takeStop, hs, joinEither_endListening]
      rfl
    · simp only [takeStop, hs]
      rfl
    · simp only [takeStop, hs]
      rfl

/-- Settles O11: the listening expiry, carrier, and a level change in any other state. -/
theorem listeningEndsInARunOrByCarrier : Obligations.ListeningEndsInARunOrByCarrier := by
  refine ⟨fun s hh hs => ?_, fun s hh hs => ?_, fun s hs => ?_⟩
  · let t := swapPending { s with cye.state := .running, cye.deadline := none, cye.start := none }
    have hntq : t.ntq = s.ntq := swapPending_ntq _
    have hchoices : t.choices = s.choices := swapPending_choices _
    refine ⟨joinEither (startReply s .ok) (commitReply s) t, ?_, ?_, ?_, ?_⟩
    · change perform (if _ then _ else _) s = _
      rw [if_pos hs, perform_some hh]
      rfl
    · have h := joinEither_rest (startReply s .ok) (commitReply s) t
      rw [hntq, hchoices] at h
      exact h
    · rw [← hntq]
      exact joinEither_ntq _ _ t
    · rw [← hntq]
      exact joinEither_two_deferred s.cye.start s.sbk.commit kindStart kindSchedCommit .ok .ok [] [s.sbk.epoch + 1] t
  · change perform (if _ then _ else _) s = _
    rw [if_pos hs, perform_some hh, joinEither_endListening]
    rfl
  · change perform (if _ then _ else _) s = _
    rw [if_neg hs, perform_none]

/-! ### The beacon and slots without transmission (R4, R6, R73) -/

/-- Settles O12: the beacon by the admission result, and a slot start by the kind of its entry. -/
theorem beaconsAndSlotsWithoutTransmission : Obligations.BeaconsAndSlotsWithoutTransmission := by
  refine ⟨fun cycle s => ?_, fun s h => ?_⟩
  · unfold beginCycle beacon beaconItems
    cases hr : s.adm.result <;> simp [hr, setAdmission, handOver, countGlobal, admitFlags, admitResultCode, oneByte]
  · obtain ⟨hh, hrun, hfree, hslot⟩ := h
    have e : exec .slotStart s = .next (arbitrate (startSlot s)) := by
      change perform (if _ then _ else _) s = _
      rw [if_pos ⟨hrun, hfree, hslot⟩, perform_some hh]
    rw [e]
    refine ⟨fun hk => ?_, fun hk => ?_, fun hk => ?_⟩ <;> simp only [startSlot, hk]

/-! ### The ends of a transmission (R12, R133, R134) -/

theorem drivenLevel_eq {seg : Segment} {cell : Nat} {v : Bool} (second : Bool) (h : (segmentCells seg)[cell]? = some v) :
    drivenLevel seg cell second = some (if second then v else !v) := by
  simp [drivenLevel, h, halfLevel]

/-- A sample is past when its half cell has gone by, or SEND is in LAG (R134). -/
theorem sampleAhead_false_iff {phase : SendPhase} {cell : Nat} {second : Bool} : sampleAhead phase cell second = false ↔
    phase = .lag ∨ ∃ k h, phase = .cells k h ∧ (cell < k ∨ (cell = k ∧ h = true ∧ second = false)) := by
  cases phase with
  | lead => simp [sampleAhead]
  | lag => simp [sampleAhead]
  | cells k h => cases h <;> cases second <;> simp [sampleAhead] <;> omega

/-- An echo mismatch on a line that sends: the sample is ahead and differs from the driven level, or nothing happens. -/
theorem exec_echoMismatch {seg : Segment} {phase : SendPhase} {cell : Nat} {second level : Bool} {s : State}
    (hh : held s = false) (hl : s.lif.line = .send seg phase) :
    exec (.echoMismatch cell second level) s =
      if sampleAhead phase cell second = true ∧ drivenLevel seg cell second = some (!level)
      then .next (arbitrate (abortSegment seg s)) else .next s := by
  change perform (match s.lif.line with
    | .send seg phase => if sampleAhead phase cell second = true ∧ drivenLevel seg cell second = some (!level) then
        some (abortSegment seg s) else none
    | .idle | .watch | .receive _ _ => none) s = _
  rw [hl]
  dsimp only
  split
  · exact perform_some hh
  · exact perform_none s

/-- Below the fault streak an abort raises the streak and the count of echo mismatches (R12). -/
theorem abortSegment_below {s : State} (seg : Segment) (h : s.cye.streak + 1 ≠ s.rex.config.faultStreak) :
    abortSegment seg s = countGlobal .echoMismatches { s with lif.line := .idle, cye.streak := s.cye.streak + 1 } := by
  unfold abortSegment
  exact if_neg h

/-- Settles O13: a completed transmission, and a sample by whether it is past and whether it differs. -/
theorem transmissionsEndCleanlyOrByAnEchoMismatch : Obligations.TransmissionsEndCleanlyOrByAnEchoMismatch := by
  constructor
  · intro seg phase s hh hl
    have e : exec .transmissionCompleted s = perform (match s.lif.line with
        | .send _ _ => some (countGlobal .transmissionsCompleted { s with lif.line := .idle, cye.streak := 0 })
        | .idle | .watch | .receive _ _ => none) s := rfl
    rw [e, hl, perform_some hh]
    rfl
  · intro seg phase cell v second level s hh hl hv past
    rw [exec_echoMismatch hh hl, drivenLevel_eq second hv]
    refine ⟨fun hp => ?_, fun hp hne hlt => ?_, fun heq => ?_⟩
    · rw [sampleAhead_false_iff.mpr hp, if_neg (by simp)]
    · have hahead : sampleAhead phase cell second = true := by simpa using mt sampleAhead_false_iff.mp hp
      have hnot : s.cye.streak + 1 ≠ s.rex.config.faultStreak := by omega
      rw [if_pos ⟨hahead, by rw [Bool.eq_not_of_ne (Ne.symm hne)]⟩, abortSegment_below seg hnot]
      rfl
    · rw [if_neg (by simp [← heq])]

/-- What an offered notice does to the queue rests on the queue and the ATTN mode (R183, R191, R192). -/
theorem offer_ntq_congr {s t : State} (n : Notice) (hn : t.ntq = s.ntq) (hr : t.rex = s.rex) :
    (offer n t).ntq = (offer n s).ntq := by
  unfold offer attnOnFirst
  rw [hn]
  dsimp only
  rw [hr]
  (repeat' split) <;> rfl

/-- What an offered notice counts rests on the queue (R183). -/
theorem offer_counters_congr {s t : State} (n : Notice) (hn : t.ntq = s.ntq) (hc : t.counters = s.counters) :
    (offer n t).counters = (offer n s).counters := by
  unfold offer
  rw [hn]
  (repeat' split) <;> simp [countGlobal, hc]

/-- The state of a bus fault before the run is left: the cause, the counters and the notice (R12). -/
def faulted (seg : Segment) (s : State) : State :=
  offer (.busFault (s.cye.streak + 1) s.cye.cycle) (countGlobal .busFaults (countGlobal .echoMismatches
    { s with lif.line := .idle, cye.streak := s.cye.streak + 1, cye.cause := causeOf seg.kind }))

theorem faulted_cye (seg : Segment) (s : State) : (faulted seg s).cye =
    { s.cye with streak := s.cye.streak + 1, cause := causeOf seg.kind } := by simp [faulted]
theorem faulted_sbk (seg : Segment) (s : State) : (faulted seg s).sbk = s.sbk := by simp [faulted]
theorem faulted_stt (seg : Segment) (s : State) : (faulted seg s).stt = s.stt := by simp [faulted]
theorem faulted_mpl (seg : Segment) (s : State) : (faulted seg s).mpl = s.mpl := by simp [faulted]
theorem faulted_dlv (seg : Segment) (s : State) : (faulted seg s).dlv = s.dlv := by simp [faulted]
theorem faulted_ulr (seg : Segment) (s : State) : (faulted seg s).ulr = s.ulr := by simp [faulted]
theorem faulted_hlk (seg : Segment) (s : State) : (faulted seg s).hlk = s.hlk := by simp [faulted]
theorem faulted_rex (seg : Segment) (s : State) : (faulted seg s).rex = s.rex := by simp [faulted]
theorem faulted_resetLow (seg : Segment) (s : State) : (faulted seg s).resetLow = s.resetLow := by simp [faulted]

theorem faulted_ntq (seg : Segment) (s : State) :
    (faulted seg s).ntq = (offer (.busFault (s.cye.streak + 1) s.cye.cycle) s).ntq := offer_ntq_congr _ rfl rfl

theorem faulted_counters (seg : Segment) (s : State) :
    (faulted seg s).counters = (offer (.busFault (s.cye.streak + 1) s.cye.cycle)
      (countGlobal .busFaults (countGlobal .echoMismatches s))).counters := offer_counters_congr _ rfl rfl

theorem faulted_replies (seg : Segment) (s : State) : (faulted seg s).ntq.replies = s.ntq.replies := by
  have h := congrArg Control.replies (control_offer (.busFault (s.cye.streak + 1) s.cye.cycle) s)
  rw [faulted_ntq]
  exact h

theorem abortSegment_fault {s : State} (seg : Segment) (h : s.cye.streak + 1 = s.rex.config.faultStreak) :
    abortSegment seg s = completeStop (faulted seg s) := by
  unfold abortSegment
  exact if_pos h

/-- Settles O14: the bus fault is the stop completion of the state with its cause, its counters and its notice. -/
theorem theStreakEndsInABusFault : Obligations.TheStreakEndsInABusFault := by
  intro seg phase cell v second s hh hl hahead hv hstreak
  refine ⟨completeStop (faulted seg s), ?_, ?_, ?_, congrArg Lif.line (completeStop_lif _), ?_, ?_, ?_, ?_, ?_, ?_, ?_⟩
  · rw [exec_echoMismatch hh hl, drivenLevel_eq second hv, abortSegment_fault seg hstreak, 
      if_pos ⟨hahead, by cases second <;> simp⟩]
  · exact (runEnded_completeStop _).congr ⟨(faulted_stt seg s).symm, (faulted_dlv seg s).symm, (faulted_ulr seg s).symm,
      (faulted_mpl seg s).symm⟩ (fun _ => rfl) rfl rfl rfl rfl rfl
  · rw [completeStop_sbk, faulted_sbk]
  · rw [completeStop_hlk, faulted_hlk]
  · rw [completeStop_rex, faulted_rex]
  · rw [completeStop_resetLow, faulted_resetLow]
  · rw [completeStop_cye, faulted_cye]
    cases seg.kind <;> rfl
  · rw [completeStop_counters, faulted_counters]
  · rw [← faulted_ntq, ← completeStop_ntq (faulted seg s), faulted_replies]
  · have h := completeStop_replies (faulted seg s)
    rw [faulted_replies, faulted_cye, faulted_sbk] at h
    exact h

/-- Settles O15: presence, the boundary and the next beacon, in the order of R7. -/
theorem theCycleEndOrdersItsWork : Obligations.TheCycleEndOrdersItsWork := by
  intro s hh hs hfree hslot
  have e : exec .cycleEnd s = .next (arbitrate (endCycle s)) := by
    change perform (if _ then _ else _) s = _
    rw [if_pos ⟨hs, hfree, hslot⟩, perform_some hh]
  have hp := control_evaluatePresence s
  rw [e, endCycle]
  generalize evaluatePresence s = t at hp ⊢
  have hsbk : t.sbk = s.sbk := congrArg Control.sbk hp
  have hreplies : t.ntq.replies = s.ntq.replies := congrArg Control.replies hp
  rw [joinEither_none_left, commitReply, joinEither_deferred, swapPending_ntq, hsbk, hreplies]
  rfl

/-- Settles O16: the stop completion in HALTING. -/
theorem theStopCompletionLeavesTheRun : Obligations.TheStopCompletionLeavesTheRun := by
  intro s hh hs hfree hslot
  refine ⟨completeStop s, ?_, runEnded_completeStop s, completeStop_sbk s, congrArg Lif.line (completeStop_lif s),
    completeStop_hlk s, completeStop_rex s, completeStop_resetLow s, completeStop_cye s, completeStop_counters s,
    completeStop_ntq s, completeStop_replies s⟩
  change perform (if _ then _ else _) s = _
  rw [if_pos ⟨hs, hfree, hslot⟩, perform_some hh]

end Sys2Proof.Machine
end

section
/-! What the resets leave, in the terms of the claims, and the invariants of the state after reset (R16 to R19, R37, R61,
R105, R128, R145, R159, R177 to R180, R190). -/

namespace Sys2Proof.Machine

-- One proof after another, not in parallel: the whole text compiles under a bound on memory.
set_option Elab.async false

/-! ### Whole resets -/

theorem takeEffect_due {scope : Scope} {effect : State → State} {s : State} (hlow : s.resetLow = false)
    (hin : s.rex.resetInHand = some { scope := scope, replySent := true }) :
    takeEffect scope effect s = .next (arbitrate (effect s)) := if_pos ⟨hlow, hin⟩

/-- The start-up frame owed starts at once on an idle transmitter (R188, R190). -/
theorem arbitrate_startUp {s : State} {c : Cause} (htx : s.ntq.tx = none) (hlow : s.resetLow = false)
    (hin : s.rex.resetInHand = none) (hc : s.ntq.startUp = some c) :
    arbitrate s = { s with ntq.startUp := none, ntq.tx := some { frame := startUpFrame c, source := .startUp } } := by
  simp [arbitrate, htx, hlow, resetDue, hin, hc, startFrame]

theorem dropCharacter_eq (c : CharRx) : dropCharacter c = if c = .inCharacter then .waitHigh else c := by
  cases c <;> rfl

/-- Settles O51: each whole reset is resetBlocks, and the arbiter starts the start-up frame it owes. -/
theorem wholeResetsGivePowerOnValues : Obligations.WholeResetsGivePowerOnValues := by
  intro rate1 rate0 s values straps startUp
  have hstraps : straps = strapRate rate1 rate0 := by cases rate1 <;> cases rate0 <;> rfl
  rw [hstraps]
  refine ⟨?_, ?_, fun n hn => ?_, fun n hn => ?_, fun hlow hin => ?_⟩
  · exact congrArg Host.Outcome.next (arbitrate_startUp (c := .power) rfl rfl rfl rfl)
  · exact congrArg Host.Outcome.next (arbitrate_startUp (c := .pin) rfl rfl rfl rfl)
  · exact if_pos (decide_eq_true hn)
  · exact if_neg (by simp [resetHolds, hn])
  · rw [← dropCharacter_eq]
    exact (takeEffect_due hlow hin).trans
      (congrArg Host.Outcome.next (arbitrate_startUp (c := .full) rfl rfl rfl rfl))

/-! ### LINK and BUS resets -/

/-- Settles O52: the host side at its power-on values, and the start-up frame with cause LINK. -/
theorem aLinkResetLeavesTheBusAlone : Obligations.ALinkResetLeavesTheBusAlone := by
  intro s hlow hin forgotten
  rw [← dropCharacter_eq]
  have e : exec .linkReset s = execLinkReset s := rfl
  rw [e, execLinkReset, takeEffect_due hlow hin]
  exact congrArg Host.Outcome.next (arbitrate_startUp (c := .link) rfl hlow rfl rfl)

/-- START and STOP never stand together, and the one that stands is owed its ABANDONED reply (R15, R18). -/
theorem abandonedEngineReply_owedReply {s : State} (hone : s.cye.start = none ∨ s.cye.stop = none) :
    (abandonedEngineReply s).toList.map (fun f => ({ frame := f, place := .request } : Reply)) =
      owedReply s.cye.start 0x85 [0x10] ++ owedReply s.cye.stop 0x86 [0x10] := by
  have hstart := deferredFrame_owedReply s.cye.start kindStart .abandoned []
  have hstop := deferredFrame_owedReply s.cye.stop kindStop .abandoned []
  unfold abandonedEngineReply startReply stopReply
  rcases hone with h | h
  · rw [h]
    exact hstop
  · rw [h]
    refine Eq.trans ?_ (hstart.trans (List.append_nil _).symm)
    cases deferredFrame s.cye.start kindStart .abandoned [] <;> rfl

/-- Settles O53: the blocks of the bus side reset, the ABANDONED replies joined, and the start-up frame with cause BUS. -/
theorem aBusResetStopsTheBusAlone : Obligations.ABusResetStopsTheBusAlone := by
  intro s hlow hin htx hone engine commit
  let t := busResetBlocks s
  let v := joinEither (abandonedEngineReply s) (deferredFrame s.sbk.commit kindSchedCommit .abandoned []) t
  have hrest : ({ v with ntq := t.ntq, choices := t.choices } : State) = t := joinEither_rest _ _ t
  have hntq : ({ v.ntq with replies := t.ntq.replies } : Ntq) = t.ntq := joinEither_ntq _ _ t
  refine ⟨v, ?_, ?_, ?_, ?_⟩
  · have e : exec .busReset s = execBusReset s := rfl
    rw [e, execBusReset, takeEffect_due hlow hin]
    refine congrArg Host.Outcome.next ?_
    exact arbitrate_startUp (s := v) (c := .bus) ((congrArg Ntq.tx hntq).trans htx) ((joinEither_resetLow _ _ t).trans hlow)
      (congrArg Rex.resetInHand (joinEither_rex _ _ t)) (congrArg Ntq.startUp hntq)
  · have h := joinEither_replies (abandonedEngineReply s)
      (deferredFrame s.sbk.commit kindSchedCommit .abandoned []) t
    simp only [abandonedEngineReply_owedReply hone, deferredFrame_owedReply] at h
    exact h
  · exact congrArg (fun u : State => { u with choices := s.choices, ntq := s.ntq }) hrest
  · exact congrArg (fun n : Ntq => { n with startUp := s.ntq.startUp }) hntq

/-! ### The state after reset -/

/-- No address has a record after reset (R38). -/
theorem station_reset (a : Nat) : station a State.reset = none := by
  unfold station State.reset Stt.reset
  split
  · simp [Vector.getElem?_replicate]
    split <;> rfl
  · rfl

/-- Every queue is empty after reset (R86). -/
theorem queueOf_reset (dest : Nat) : queueOf dest State.reset = [] := by
  unfold queueOf
  rw [station_reset]
  split <;> rfl

theorem queueInv_reset : QueueInv State.reset := by
  refine ⟨List.nodup_nil, by decide, fun m hm => ?_, fun dest => ?_, fun a st hst => ?_, rfl, fun r hr => ?_⟩
  · cases hm
  · simp [QueueOk, queueOf_reset]
  · rw [station_reset] at hst
    cases hst
  · cases hr

theorem engineBankInv_reset : EngineBankInv State.reset :=
  (engineBank_resetBlocks (Hlk.reset .baud115200) none false State.reset).congr rfl

theorem openInv_reset : OpenInv State.reset :=
  (openInv_iff _).mpr ((owing_resetBlocks (Hlk.reset .baud115200) none false State.reset).of_eq rfl)

theorem noticeInv_reset : NoticeInv State.reset := by
  refine ⟨Nat.zero_le _, fun k hk => ?_, Nat.zero_le _, fun f hf => ?_, fun hm => ?_⟩
  · cases hk
  · cases hf
    exact ⟨(fun h => by cases h), (fun h => by cases h), (fun h => by cases h)⟩
  · cases hm

theorem stationInv_reset : StationInv State.reset := by
  refine ⟨fun a st hst => ?_, fun r hr => ?_⟩
  · rw [station_reset] at hst
    cases hst
  · cases hr

/-- Settles O54: the invariants of the state after reset, one by one. -/
theorem resetHasTheInvariants : Obligations.ResetHasTheInvariants := by
  obtain ⟨hengine, hbank⟩ := engineBankInv_reset
  refine ⟨by decide +kernel, queueInv_reset, noticeInv_reset, fun _ htx => ?_, ⟨fun _ => ⟨rfl, rfl⟩, fun hm => ?_⟩, hengine,
    hbank, openInv_reset, stationInv_reset, List.Pairwise.nil, fun x hx => ?_⟩
  · cases htx
  · cases hm
  · cases hx

end Sys2Proof.Machine
end

section
/-! The checks of a bank, each in the terms of the claims: which index it reports, and when it passes (R27 to R31). -/

namespace Sys2Proof.Machine

-- One proof after another, not in parallel: the whole text compiles under a bound on memory.
set_option Elab.async false

/-! ### What the checks look for -/

/-- An entry from index N on that is not IDLE (R27). -/
def Beyond (b : Bank) (i : Nat) : Prop := b.length ≤ i ∧ i < 60 ∧ (entryAt b i).kind ≠ .idle

/-- An entry below N whose owner does not suit its kind (R22, R27). -/
def Unsuited (b : Bank) (i : Nat) : Prop :=
  i < b.length ∧
    ((((entryAt b i).kind = .idle ∨ (entryAt b i).kind = .admission) ∧ (entryAt b i).owner ≠ 0) ∨
      ((entryAt b i).kind = .up ∧ ((entryAt b i).owner = 0 ∨ (entryAt b i).owner = 31)) ∨
      ((entryAt b i).kind = .down ∧ (entryAt b i).owner = 0))

/-- The entry of a kind and an owner below N that has `n` such entries before it. -/
def Nth (b : Bank) (n : Nat) (k : SlotKind) (a i : Nat) : Prop :=
  i < b.length ∧ (entryAt b i).kind = k ∧ (entryAt b i).owner = a ∧
    ((List.range i).countP fun j => (entryAt b j).kind = k ∧ (entryAt b j).owner = a) = n

/-- An address's fifth DOWN or fifth UP entry (R29). -/
def Fifth (b : Bank) (a i : Nat) : Prop := Nth b 4 .down a i ∨ Nth b 4 .up a i

/-- The first entry of an address that has one kind without the other (R30). -/
def Unpaired (b : Bank) (a i : Nat) : Prop :=
  (Nth b 0 .down a i ∧ ∀ j, ¬ Nth b 0 .up a j) ∨ (Nth b 0 .up a i ∧ ∀ j, ¬ Nth b 0 .down a j)

/-! ### Searches in rising order -/

/-- Among the numbers below `n` that pass a test, one that passes has fewer before it than there are. -/
theorem countP_range_lt {p : Nat → Bool} {i n : Nat} (hi : i < n) (hp : p i = true) :
    (List.range i).countP p < (List.range n).countP p := by
  have hsub := (List.range_sublist.mpr (Nat.succ_le_of_lt hi)).countP_le (p := p)
  simpa [List.range_succ, hp] using hsub

/-- The number at a place among those below `n` that pass a test has that many before it. -/
theorem getElem?_filter_range (p : Nat → Bool) (n k i : Nat) :
    ((List.range n).filter p)[k]? = some i ↔ i < n ∧ p i = true ∧ (List.range i).countP p = k := by
  induction n with
  | zero => simp
  | succ n ih =>
    rw [List.range_succ, List.filter_append, List.getElem?_append, ← List.countP_eq_length_filter]
    have hlast : ([n].filter p)[k - (List.range n).countP p]? = some i ↔
        i = n ∧ p n = true ∧ k ≤ (List.range n).countP p := by
      cases hp : p n <;> simp [hp, List.getElem?_singleton]
      omega
    split
    · rename_i hk
      rw [ih]
      constructor
      · rintro ⟨hi, hrest⟩
        exact ⟨by omega, hrest⟩
      · rintro ⟨hi, hp, hc⟩
        rcases Nat.lt_succ_iff_lt_or_eq.mp hi with hlt | rfl
        · exact ⟨hlt, hp, hc⟩
        · omega
    · rename_i hk
      rw [hlast]
      constructor
      · rintro ⟨rfl, hp, hc⟩
        exact ⟨by omega, hp, by omega⟩
      · rintro ⟨hi, hp, hc⟩
        rcases Nat.lt_succ_iff_lt_or_eq.mp hi with hlt | rfl
        · have := countP_range_lt hlt hp
          omega
        · exact ⟨rfl, hp, by omega⟩

/-- A search below `n`, by a test that is a property of numbers below `n`, answers the least number that has it. -/
theorem find?_range_least {p : Nat → Bool} {P : Nat → Prop} {n : Nat} (hp : ∀ i, P i ↔ i < n ∧ p i = true) (i : Nat) :
    (List.range n).find? p = some i ↔ P i ∧ ∀ j < i, ¬ P j := by
  simp only [List.find?_range_eq_some, List.mem_range, hp, Bool.not_eq_true']
  constructor
  · rintro ⟨hpi, hi, hfirst⟩
    exact ⟨⟨hi, hpi⟩, fun j hj h => by simp [hfirst j hj] at h⟩
  · rintro ⟨⟨hi, hpi⟩, hfirst⟩
    exact ⟨hpi, hi, fun j hj => Bool.eq_false_of_not_eq_true fun h => hfirst j hj ⟨by omega, h⟩⟩

theorem find?_range_none {p : Nat → Bool} {P : Nat → Prop} {n : Nat} (hp : ∀ i, P i ↔ i < n ∧ p i = true) :
    (List.range n).find? p = none ↔ ∀ i, ¬ P i := by
  simp only [List.find?_range_eq_none, hp, Bool.not_eq_true', not_and, Bool.not_eq_true]

section Addresses
variable {f : Nat → Option Nat} {Answer Has : Nat → Nat → Prop}

theorem findSome?_addresses_none (hnone : ∀ a, f a = none ↔ ∀ i, ¬ Has a i) (n : Nat) :
    (List.range' 1 n).findSome? f = none ↔ ∀ a i, 1 ≤ a → a ≤ n → ¬ Has a i := by
  simp only [List.findSome?_eq_none_iff, List.mem_range'_1, hnone]
  exact forall_congr' fun a => ⟨fun h i h1 hn => h ⟨h1, by omega⟩ i, fun h ⟨h1, hn⟩ i => h i h1 (by omega)⟩

/-- A search over the addresses 1 to n answers for the first address that has an answer. -/
theorem findSome?_addresses_some (hsome : ∀ a i, f a = some i ↔ Answer a i) (hnone : ∀ a, f a = none ↔ ∀ i, ¬ Has a i)
    (n i : Nat) : (List.range' 1 n).findSome? f = some i ↔
      ∃ a, 1 ≤ a ∧ a ≤ n ∧ Answer a i ∧ ∀ a' j, 1 ≤ a' → a' < a → ¬ Has a' j := by
  induction n with
  | zero => simp only [List.range'_zero, List.findSome?_nil]; grind
  | succ n ih =>
    simp only [List.range'_1_concat, List.findSome?_append, Option.or_eq_some_iff, ih, findSome?_addresses_none hnone,
      List.findSome?_singleton, hsome]
    constructor
    · rintro (⟨a, h1, hn, ha, hfirst⟩ | ⟨hbefore, ha⟩)
      · exact ⟨a, h1, by omega, ha, hfirst⟩
      · exact ⟨1 + n, by omega, by omega, ha, fun a' j h1 hlt => hbefore a' j h1 (by omega)⟩
    · rintro ⟨a, h1, hn, ha, hfirst⟩
      by_cases hlast : a = 1 + n
      · subst hlast
        exact .inr ⟨fun a' j h1 hle => hfirst a' j h1 (by omega), ha⟩
      · exact .inl ⟨a, h1, by omega, ha, hfirst⟩

end Addresses

/-! ### The indices of a kind and an owner -/

/-- The place of an index among those of a kind and an owner below N. -/
theorem getElem?_indicesOf (b : Bank) (n : Nat) (k : SlotKind) (a i : Nat) :
    (indicesOf b fun e => e.kind == k && e.owner == a)[n]? = some i ↔ Nth b n k a i := by
  rw [indicesOf, getElem?_filter_range, Nth]
  simp only [Bool.and_eq_true, Bool.decide_and, Bool.beq_eq_decide_eq, decide_eq_true_eq, and_assoc]

theorem downIndices_getElem? (b : Bank) (a n i : Nat) : (downIndices b a)[n]? = some i ↔ Nth b n .down a i :=
  getElem?_indicesOf b n .down a i

theorem upIndices_getElem? (b : Bank) (a n i : Nat) : (upIndices b a)[n]? = some i ↔ Nth b n .up a i :=
  getElem?_indicesOf b n .up a i

theorem downIndices_getElem?_eq_none (b : Bank) (a n : Nat) :
    (downIndices b a)[n]? = none ↔ ∀ i, ¬ Nth b n .down a i := by
  simp only [Option.eq_none_iff_forall_ne_some, ne_eq, downIndices_getElem?]

theorem upIndices_getElem?_eq_none (b : Bank) (a n : Nat) :
    (upIndices b a)[n]? = none ↔ ∀ i, ¬ Nth b n .up a i := by
  simp only [Option.eq_none_iff_forall_ne_some, ne_eq, upIndices_getElem?]

/-! ### The five checks -/

theorem beyond_iff (b : Bank) (i : Nat) :
    Beyond b i ↔ i < 60 ∧ (decide (b.length ≤ i) && (entryAt b i).kind != .idle) = true := by
  simp only [Beyond, Bool.and_eq_true, decide_eq_true_eq, bne_iff_ne]
  exact and_left_comm

/-- For an owner that a bank can hold, the model's owner check is that of R22. -/
theorem ownerSuits_eq_false {e : Entry} (h : e.owner ≤ 31) : ownerSuits e = false ↔
    ((e.kind = .idle ∨ e.kind = .admission) ∧ e.owner ≠ 0) ∨ (e.kind = .up ∧ (e.owner = 0 ∨ e.owner = 31)) ∨
      (e.kind = .down ∧ e.owner = 0) := by
  cases hk : e.kind <;> simp [ownerSuits, hk] <;> omega

theorem unsuited_iff {b : Bank} (hlen : b.length ≤ 60) (howner : ∀ i < 60, (entryAt b i).owner ≤ 31) (i : Nat) :
    Unsuited b i ↔ i < b.length ∧ (!ownerSuits (entryAt b i)) = true := by
  rw [Bool.not_eq_true']
  exact and_congr_right fun hi => (ownerSuits_eq_false (howner i (by omega))).symm

/-- Where the owners suit the kinds, every ADMIT entry has owner 0 (R22, R28). -/
theorem tooManyAdmitFault_eq_some {b : Bank} (hsuit : ∀ i, ¬ Unsuited b i) (i : Nat) :
    tooManyAdmitFault b = some i ↔ Nth b 1 .admission 0 i := by
  have howner : ∀ j < b.length, (entryAt b j).kind = .admission → (entryAt b j).owner = 0 := fun j hj hk =>
    Decidable.byContradiction fun ho => hsuit j ⟨hj, .inl ⟨.inr hk, ho⟩⟩
  have hsame : (indicesOf b fun e => e.kind == .admission) =
      indicesOf b fun e => e.kind == .admission && e.owner == 0 := by
    refine List.filter_congr fun j hj => ?_
    by_cases hk : (entryAt b j).kind = .admission
    · simp [hk, howner j (List.mem_range.mp hj) hk]
    · simp [hk]
  rw [tooManyAdmitFault, hsame, getElem?_indicesOf]

theorem tooManyAdmitFault_eq_none {b : Bank} (hsuit : ∀ i, ¬ Unsuited b i) :
    tooManyAdmitFault b = none ↔ ∀ i, ¬ Nth b 1 .admission 0 i := by
  simp only [Option.eq_none_iff_forall_ne_some, ne_eq, tooManyAdmitFault_eq_some hsuit]

/-- The lower of two indices is the first of them. -/
theorem lowerOf_eq_some {x y : Option Nat} {i : Nat} :
    lowerOf x y = some i ↔ (x = some i ∨ y = some i) ∧ ∀ j < i, ¬(x = some j ∨ y = some j) := by
  cases x <;> cases y <;> simp [lowerOf] <;> grind

theorem lowerOf_eq_none {x y : Option Nat} : lowerOf x y = none ↔ x = none ∧ y = none := by
  cases x <;> cases y <;> simp [lowerOf]

/-- The index STATION_SLOTS reports for an address (R29). -/
theorem lowerOf_fifth_eq_some (b : Bank) (a i : Nat) :
    lowerOf (downIndices b a)[4]? (upIndices b a)[4]? = some i ↔ Fifth b a i ∧ ∀ j < i, ¬ Fifth b a j := by
  simp only [lowerOf_eq_some, downIndices_getElem?, upIndices_getElem?, Fifth]

theorem lowerOf_fifth_eq_none (b : Bank) (a : Nat) :
    lowerOf (downIndices b a)[4]? (upIndices b a)[4]? = none ↔ ∀ i, ¬ Fifth b a i := by
  simp only [lowerOf_eq_none, downIndices_getElem?_eq_none, upIndices_getElem?_eq_none, Fifth, not_or, forall_and]

theorem stationSlotsFault_eq_some (b : Bank) (i : Nat) : stationSlotsFault b = some i ↔
    ∃ a, 1 ≤ a ∧ a ≤ 31 ∧ (Fifth b a i ∧ ∀ j < i, ¬ Fifth b a j) ∧ ∀ a' j, 1 ≤ a' → a' < a → ¬ Fifth b a' j :=
  findSome?_addresses_some (lowerOf_fifth_eq_some b) (lowerOf_fifth_eq_none b) 31 i

theorem stationSlotsFault_eq_none (b : Bank) :
    stationSlotsFault b = none ↔ ∀ a i, 1 ≤ a → a ≤ 31 → ¬ Fifth b a i :=
  findSome?_addresses_none (lowerOf_fifth_eq_none b) 31

/-- The index of the one kind that stands without the other. -/
def loneOf (d u : Option Nat) : Option Nat :=
  match d, u with
  | some d, none => some d
  | none, some u => some u
  | _, _ => none

theorem loneOf_eq_some {d u : Option Nat} {i : Nat} :
    loneOf d u = some i ↔ (d = some i ∧ u = none) ∨ (u = some i ∧ d = none) := by
  cases d <;> cases u <;> simp [loneOf]

theorem loneOf_heads_eq_some (b : Bank) (a i : Nat) :
    loneOf (downIndices b a).head? (upIndices b a).head? = some i ↔ Unpaired b a i := by
  simp only [loneOf_eq_some, List.head?_eq_getElem?, downIndices_getElem?, upIndices_getElem?,
    downIndices_getElem?_eq_none, upIndices_getElem?_eq_none, Unpaired]

theorem loneOf_heads_eq_none (b : Bank) (a : Nat) :
    loneOf (downIndices b a).head? (upIndices b a).head? = none ↔ ∀ i, ¬ Unpaired b a i := by
  simp only [Option.eq_none_iff_forall_ne_some, ne_eq, loneOf_heads_eq_some]

theorem unpairedFault_eq_some (b : Bank) (i : Nat) : unpairedFault b = some i ↔
    ∃ a, 1 ≤ a ∧ a ≤ 30 ∧ Unpaired b a i ∧ ∀ a' j, 1 ≤ a' → a' < a → ¬ Unpaired b a' j :=
  findSome?_addresses_some (loneOf_heads_eq_some b) (loneOf_heads_eq_none b) 30 i

theorem unpairedFault_eq_none (b : Bank) :
    unpairedFault b = none ↔ ∀ a i, 1 ≤ a → a ≤ 30 → ¬ Unpaired b a i :=
  findSome?_addresses_none (loneOf_heads_eq_none b) 30

/-! ### Their order (R31) -/

section Order
variable (b : Bank) (i : Nat)

/-- The first check that answers decides. -/
theorem bankFault_eq_or : bankFault b =
    ((lengthRangeFault b).map fun i => (.lengthRange, i)).or (((ownerKindFault b).map fun i => (.ownerKind, i)).or
      (((tooManyAdmitFault b).map fun i => (.tooManyAdmit, i)).or
        (((stationSlotsFault b).map fun i => (.stationSlots, i)).or
          ((unpairedFault b).map fun i => (.unpaired, i))))) := by
  unfold bankFault
  cases lengthRangeFault b with
  | some i => rfl
  | none =>
    cases ownerKindFault b with
    | some i => rfl
    | none =>
      cases tooManyAdmitFault b with
      | some i => rfl
      | none => cases stationSlotsFault b <;> rfl

theorem bankFault_eq_none : bankFault b = none ↔ lengthRangeFault b = none ∧ ownerKindFault b = none ∧
    tooManyAdmitFault b = none ∧ stationSlotsFault b = none ∧ unpairedFault b = none := by
  simp [bankFault_eq_or]

theorem bankFault_eq_lengthRange : bankFault b = some (.lengthRange, i) ↔ lengthRangeFault b = some i := by
  simp [bankFault_eq_or, Option.or_eq_some_iff]

theorem bankFault_eq_ownerKind :
    bankFault b = some (.ownerKind, i) ↔ lengthRangeFault b = none ∧ ownerKindFault b = some i := by
  simp [bankFault_eq_or, Option.or_eq_some_iff]

theorem bankFault_eq_tooManyAdmit : bankFault b = some (.tooManyAdmit, i) ↔
    lengthRangeFault b = none ∧ ownerKindFault b = none ∧ tooManyAdmitFault b = some i := by
  simp [bankFault_eq_or, Option.or_eq_some_iff]

theorem bankFault_eq_stationSlots : bankFault b = some (.stationSlots, i) ↔ lengthRangeFault b = none ∧
    ownerKindFault b = none ∧ tooManyAdmitFault b = none ∧ stationSlotsFault b = some i := by
  simp [bankFault_eq_or, Option.or_eq_some_iff]

theorem bankFault_eq_unpaired : bankFault b = some (.unpaired, i) ↔ lengthRangeFault b = none ∧
    ownerKindFault b = none ∧ tooManyAdmitFault b = none ∧ stationSlotsFault b = none ∧ unpairedFault b = some i := by
  simp [bankFault_eq_or, Option.or_eq_some_iff]

end Order

/-- Settles O20: each check by what it looks for, in the order of R31; the third rests on the owners the second checks. -/
theorem bankChecksInTheirOrder : Obligations.BankChecksInTheirOrder := by
  intro b hlen howner
  have none1 : lengthRangeFault b = none ↔ ∀ i, ¬ Beyond b i := find?_range_none (beyond_iff b)
  have none2 : ownerKindFault b = none ↔ ∀ i, ¬ Unsuited b i := find?_range_none (unsuited_iff hlen howner)
  refine ⟨?_, fun i => ?_, fun i => ?_, fun i => ?_, fun i => ?_, fun i => ?_⟩
  · rw [bankFault_eq_none, none1, none2]
    exact and_congr_right fun _ => and_congr_right fun hsuit => and_congr (tooManyAdmitFault_eq_none hsuit)
      (and_congr (stationSlotsFault_eq_none b) (unpairedFault_eq_none b))
  · rw [bankFault_eq_lengthRange]
    exact find?_range_least (beyond_iff b) i
  · rw [bankFault_eq_ownerKind, none1]
    exact and_congr_right fun _ => find?_range_least (unsuited_iff hlen howner) i
  · rw [bankFault_eq_tooManyAdmit, none1, none2]
    exact and_congr_right fun _ => and_congr_right fun hsuit => tooManyAdmitFault_eq_some hsuit i
  · rw [bankFault_eq_stationSlots, none1, none2, stationSlotsFault_eq_some]
    simp only [and_assoc]
    exact and_congr_right fun _ => and_congr_right fun hsuit => and_congr_left' (tooManyAdmitFault_eq_none hsuit)
  · rw [bankFault_eq_unpaired, none1, none2, unpairedFault_eq_some]
    exact and_congr_right fun _ => and_congr_right fun hsuit => and_congr (tooManyAdmitFault_eq_none hsuit)
      (and_congr_left' (stationSlotsFault_eq_none b))

end Sys2Proof.Machine
end

section
/-! What a boundary does to the banks and the in-flight records, in the terms of the claims (R32, R34, R36, R96). -/

namespace Sys2Proof.Machine

-- One proof after another, not in parallel: the whole text compiles under a bound on memory.
set_option Elab.async false

/-! ### The entries in use (R22, R29, R36) -/

/-- The entry at an index is the one of a kind and an owner. -/
theorem entry_test_iff (e : Entry) (k : SlotKind) (a : Nat) :
    (e.kind == k && e.owner == a) = true ↔ e = { kind := k, owner := a } := by
  obtain ⟨kind, owner⟩ := e
  simp

theorem ownsDown_iff (b : Bank) (a : Nat) :
    ownsDown b a = true ↔ ∃ i < b.length, entryAt b i = { kind := .down, owner := a } := by
  simp only [ownsDown, downIndices, indicesOf, Bool.not_eq_true', ← Bool.not_eq_true, List.isEmpty_iff,
    List.filter_eq_nil_iff, List.mem_range, entry_test_iff]
  push Not
  rfl

/-! ### The rewinds of a swap (R36) -/

theorem rewindStation_rewindStation (st : Station) : rewindStation (rewindStation st) = rewindStation st := by
  simp [rewindStation, Function.comp_def, freshInFlight]

/-- Of the addresses listed, the stations without a DOWN entry in a bank are rewound one after another (R36). -/
def rewindListed (b : Bank) (as : List Nat) (s : State) : State :=
  as.foldl (fun t a => if ownsDown b a then t else onStation a rewindStation t) s

theorem rewindListed_cons (b : Bank) (a : Nat) (as : List Nat) (s : State) : rewindListed b (a :: as) s =
    rewindListed b as (if ownsDown b a then s else onStation a rewindStation s) := rfl

theorem rewindUnscheduled_eq (s : State) : rewindUnscheduled s =
    if ownsDown s.sbk.active 31 then rewindListed s.sbk.active (List.range' 1 30) s
    else rewindBroadcast (rewindListed s.sbk.active (List.range' 1 30) s) := rfl

theorem station_rewindListed (b : Bank) (a : Nat) (as : List Nat) (s : State) :
    station a (rewindListed b as s) =
      if a ∈ as ∧ ownsDown b a = false then (station a s).map rewindStation else station a s := by
  induction as generalizing s with
  | nil => simp [rewindListed]
  | cons x as ih =>
    rw [rewindListed_cons, ih]
    by_cases hx : a = x
    · subst hx
      cases hd : ownsDown b a
      · simp [station_onStation_same, Function.comp_def, rewindStation_rewindStation]
      · simp
    · have hsame : station a (if ownsDown b x then s else onStation x rewindStation s) = station a s := by
        split
        · rfl
        · exact station_onStation_other rewindStation s hx
      simp [hsame, hx]

/-- What the rewind of a station leaves alone, the rewinds of the listed ones leave alone. -/
theorem rewindListed_keeps {α : Type} {f : State → α} (hf : ∀ a s, f (onStation a rewindStation s) = f s) (b : Bank)
    (as : List Nat) (s : State) : f (rewindListed b as s) = f s := by
  induction as generalizing s with
  | nil => rfl
  | cons a as ih =>
    rw [rewindListed_cons, ih]
    split
    · rfl
    · exact hf a s

theorem setStation_rex_comm (a : Nat) (r : Option Station) (rex : Rex) (s : State) :
    setStation a r { s with rex := rex } = { setStation a r s with rex := rex } := by
  unfold setStation
  split <;> rfl

theorem onStation_rex_comm (a : Nat) (f : Station → Station) (rex : Rex) (s : State) :
    onStation a f { s with rex := rex } = { onStation a f s with rex := rex } := by
  have hsame : station a { s with rex := rex } = station a s := rfl
  cases hst : station a s with
  | none => rw [onStation_none hst, onStation_none (hsame.trans hst)]
  | some st => rw [onStation_some hst, onStation_some (hsame.trans hst), setStation_rex_comm]

theorem rewindListed_rex_comm (b : Bank) (as : List Nat) (rex : Rex) (s : State) :
    rewindListed b as { s with rex := rex } = { rewindListed b as s with rex := rex } := by
  induction as generalizing s with
  | nil => rfl
  | cons a as ih =>
    simp only [rewindListed_cons]
    split
    · exact ih s
    · rw [onStation_rex_comm, ih]

/-- The rewinds do not reach the executor, nor it them (R36, R162). -/
theorem rewindUnscheduled_rex_comm (rex : Rex) (s : State) :
    rewindUnscheduled { s with rex := rex } = { rewindUnscheduled s with rex := rex } := by
  simp only [rewindUnscheduled_eq, rewindListed_rex_comm]
  split <;> rfl

theorem station_rewindUnscheduled (a : Nat) (s : State) :
    station a (rewindUnscheduled s) =
      if ownsDown s.sbk.active a then station a s else (station a s).map rewindStation := by
  have hlisted : station a (rewindUnscheduled s) =
      station a (rewindListed s.sbk.active (List.range' 1 30) s) := by
    rw [rewindUnscheduled_eq]
    split <;> rfl
  rw [hlisted, station_rewindListed]
  cases hd : ownsDown s.sbk.active a
  · by_cases ha : 1 ≤ a ∧ a ≤ 30
    · have hmem : a ∈ List.range' 1 30 := by simp; omega
      simp [hmem]
    · simp [station_range ha]
  · simp

theorem rewindUnscheduled_strangers (s : State) : (rewindUnscheduled s).stt.strangers = s.stt.strangers := by
  rw [rewindUnscheduled_eq]
  split <;> exact rewindListed_keeps (f := fun t => t.stt.strangers) (fun a => onStation_strangers a _) _ _ s

/-- The broadcast record is rewound where broadcast has no DOWN entry (R36). -/
theorem rewindUnscheduled_dlv (s : State) : (rewindUnscheduled s).dlv =
    if ownsDown s.sbk.active 31 then s.dlv
    else { s.dlv with inFlight := s.dlv.inFlight.map fun r => freshBroadcast r.handle } := by
  have hdlv := rewindListed_keeps (f := State.dlv) (fun a => onStation_dlv a _) s.sbk.active (List.range' 1 30) s
  rw [rewindUnscheduled_eq]
  split
  · exact hdlv
  · simp only [rewindBroadcast, hdlv]

/-! ### The swap (R32, R34) -/

/-- The banks after a swap (R34). -/
def swappedBanks (b : Sbk) : Sbk :=
  { active := b.edit, edit := b.edit, epoch := b.epoch + 1, edited := false, commit := none }

/-- A swap rewinds what the pending bank leaves unscheduled. -/
theorem swap_eq (s : State) : swap s = rewindUnscheduled { s with sbk := swappedBanks s.sbk } := rfl

theorem swap_frame (s : State) : swap s =
    { s with sbk := (swap s).sbk, stt.records := (swap s).stt.records, dlv.inFlight := (swap s).dlv.inFlight } := by
  have hsbk : (swap s).sbk = swappedBanks s.sbk := congrArg Control.sbk (control_swap s)
  have hrest := rewindUnscheduled_rest { s with sbk := swappedBanks s.sbk } (swap s).stt (swap s).dlv
  have hstt : (swap s).stt = { s.stt with records := (swap s).stt.records } :=
    congrArg (Stt.mk (swap s).stt.records) (rewindUnscheduled_strangers _)
  have hdlv : (swap s).dlv = { s.dlv with inFlight := (swap s).dlv.inFlight } := by
    rw [swap_eq, rewindUnscheduled_dlv]
    split <;> rfl
  calc swap s = { s with sbk := swappedBanks s.sbk, stt := (swap s).stt, dlv := (swap s).dlv } := hrest
    _ = _ := by rw [← hsbk, ← hstt, ← hdlv]

theorem station_swap (a : Nat) (s : State) :
    station a (swap s) = if ownsDown s.sbk.edit a then station a s else (station a s).map rewindStation :=
  station_rewindUnscheduled a { s with sbk := swappedBanks s.sbk }

theorem swap_dlv (s : State) : (swap s).dlv =
    if ownsDown s.sbk.edit 31 then s.dlv
    else { s.dlv with inFlight := s.dlv.inFlight.map fun r => freshBroadcast r.handle } :=
  rewindUnscheduled_dlv { s with sbk := swappedBanks s.sbk }

/-- A swap does not reach the executor, nor it the swap (R34, R162). -/
theorem swap_rex_comm (rex : Rex) (s : State) : swap { s with rex := rex } = { swap s with rex := rex } :=
  rewindUnscheduled_rex_comm rex { s with sbk := swappedBanks s.sbk }

/-- Settles O21: the frame of a swap, the record of each address by whether it keeps a DOWN entry, and the boundary. -/
theorem aSwapRewindsWhatLosesItsSlots : Obligations.ASwapRewindsWhatLosesItsSlots := by
  intro s t hasDown
  have howns : ∀ a, hasDown a ↔ ownsDown s.sbk.edit a = true := fun a => (ownsDown_iff s.sbk.edit a).symm
  refine ⟨swap_frame s, congrArg Control.sbk (control_swap s), fun a ha => ?_, fun a ha => ?_, fun hb => ?_, fun hb => ?_,
    fun hc => ?_, fun hc => ?_⟩
  · exact (station_swap a s).trans (if_pos ((howns a).mp ha))
  · exact (station_swap a s).trans (if_neg (mt (howns a).mpr ha))
  · exact (swap_dlv s).trans (if_pos ((howns 31).mp hb))
  · exact congrArg Dlv.inFlight ((swap_dlv s).trans (if_neg (mt (howns 31).mpr hb)))
  · exact if_pos (Option.isSome_iff_ne_none.mpr hc)
  · exact if_neg (by simp [hc])

end Sys2Proof.Machine
end

section
/-! SCHED_EDIT, SCHED_READ and SCHED_COMMIT in the terms of the claims (R23 to R26, R31). -/

namespace Sys2Proof.Machine

-- One proof after another, not in parallel: the whole text compiles under a bound on memory.
set_option Elab.async false

/-! ### Taking a schedule request (R165, R166) -/

theorem exec_schedCommit {tag : Byte} {rest : List Request} {s : State} (h : CanTake ⟨0x09, tag, []⟩ rest s) :
    exec (.schedCommit tag []) s = .next (arbitrate (takeSchedCommit tag { s with rex.inbox := rest })) :=
  request_suits (takeSchedCommit tag) h rfl

theorem exec_schedRead {tag sel start count : Byte} {rest : List Request} {s : State}
    (h : CanTake ⟨0x08, tag, [sel, start, count]⟩ rest s) : exec (.schedRead tag [sel, start, count]) s =
      .next (arbitrate (takeSchedRead tag [sel, start, count] { s with rex.inbox := rest })) :=
  request_suits (takeSchedRead tag [sel, start, count]) h rfl

/-- A SCHED_EDIT body with its pairs suits the kind (R166). -/
theorem lengthSuits_schedEdit {start count length : Byte} {pairs : List Byte} (hp : pairs.length = 2 * count.toNat) :
    lengthSuits kindSchedEdit (start :: count :: length :: pairs) = true := by
  simp [lengthSuits, numAt, byteAt, hp, kindSchedEdit, kindIdentify, kindStatus, kindReadConfig, kindStart, kindStop,
    kindSchedCommit, kindStrangers, kindConfigure]
  omega

theorem exec_schedEdit {tag start count length : Byte} {pairs : List Byte} {rest : List Request} {s : State}
    (hp : pairs.length = 2 * count.toNat) (h : CanTake ⟨0x07, tag, start :: count :: length :: pairs⟩ rest s) :
    exec (.schedEdit tag (start :: count :: length :: pairs)) s =
      .next (arbitrate (takeSchedEdit tag (start :: count :: length :: pairs) (taken rest s))) :=
  request_suits (takeSchedEdit tag (start :: count :: length :: pairs)) h (lengthSuits_schedEdit hp)

/-! ### SCHED_COMMIT (R26) -/

theorem bankFaultCode_eq (why : BankFault) : bankFaultCode why = match why with
    | .lengthRange => 1 | .ownerKind => 2 | .tooManyAdmit => 3 | .stationSlots => 4 | .unpaired => 5 := by
  cases why <;> rfl

/-- Taking the request does not reach what a swap reads (R34, R165). -/
theorem swap_inbox (rest : List Request) (s : State) :
    swap { s with rex.inbox := rest } = { swap s with rex.inbox := rest } := by
  have hrex : (swap s).rex = s.rex := congrArg Control.rex (control_swap s)
  rw [swap_rex_comm, ← hrex]

/-- Settles O19: each case of SCHED_COMMIT in the order of R26. -/
theorem schedCommitByCase : Obligations.SchedCommitByCase := by
  intro tag rest s h
  rw [exec_schedCommit h]
  refine ⟨fun hc => ?_, fun hc he => ?_, fun why i hc he hf => ?_, fun hc he hf hs => ?_, fun hc he hf hs => ?_⟩
  · simp only [takeSchedCommit, hc, if_true]
    rfl
  · simp only [takeSchedCommit, hc, he]
    rfl
  · simp only [takeSchedCommit, hc, he, hf]
    cases why <;> rfl
  · simp only [takeSchedCommit, hc, he, hf, hs]
    rw [swap_inbox]
    rfl
  · simp only [takeSchedCommit, hc, he, hf, hs]
    rfl

/-! ### SCHED_READ (R25) -/

theorem readFlags_eq (s : State) : readFlags s =
    (if s.sbk.edited then 0x01 else 0x00) + (if s.sbk.commit.isSome then 0x02 else 0x00) := by
  unfold readFlags
  cases s.sbk.edited <;> cases s.sbk.commit.isSome <;> rfl

theorem slotKindCode_eq (k : SlotKind) :
    slotKindCode k = match k with | .idle => 0 | .down => 1 | .up => 2 | .admission => 3 := by
  cases k <;> rfl

/-- The fields of SCHED_READ are in range (R25). -/
theorem schedRead_fits_iff (sel start count : Byte) :
    (sel ≤ 1 ∧ start ≤ 59 ∧ 1 ≤ count ∧ start.toNat + count.toNat ≤ 60) ↔
      (sel.toNat ≤ 1 ∧ start.toNat ≤ 59 ∧ 1 ≤ count.toNat ∧ count.toNat ≤ 60 ∧ start.toNat + count.toNat ≤ 60) := by
  simp only [BitVec.le_def, BitVec.ofNat_eq_ofNat, BitVec.toNat_ofNat]
  omega

/-- SCHED_READ by whether its fields are in range (R25). -/
theorem takeSchedRead_eq (tag sel start count : Byte) (s : State) : takeSchedRead tag [sel, start, count] s =
    if sel ≤ 1 ∧ start ≤ 59 ∧ 1 ≤ count ∧ start.toNat + count.toNat ≤ 60 then
      reply kindSchedRead tag .ok
        ([sel, oneByte (if sel = 0 then s.sbk.active else s.sbk.edit).length, s.sbk.epoch, readFlags s] ++
          entryBytes (if sel = 0 then s.sbk.active else s.sbk.edit) start.toNat count.toNat) s
    else reply kindSchedRead tag .badArgument [] s := by
  have hsel : sel = 0 ↔ sel.toNat = 0 := BitVec.toNat_inj.symm
  simp only [schedRead_fits_iff, hsel]
  rfl

/-- Settles O18: SCHED_READ by whether its fields are in range. -/
theorem schedReadAnswersABank : Obligations.SchedReadAnswersABank := by
  intro tag sel start count rest s h
  rw [exec_schedRead h, takeSchedRead_eq]
  split
  · simp only [readFlags_eq, entryBytes, slotKindCode_eq]
    rfl
  · rfl

/-! ### SCHED_EDIT (R23, R24) -/

/-- The kind a byte of 0 to 3 names (R22). -/
def kindNamed (n : Nat) : SlotKind :=
  match n with | 0 => .idle | 1 => .down | 2 => .up | _ => .admission

/-- Pair `j` of a SCHED_EDIT body is in range (R23). -/
def PairFits (pairs : List Byte) (j : Nat) : Prop := pairs.getD (2 * j) 0 ≤ 3 ∧ pairs.getD (2 * j + 1) 0 ≤ 31

/-- The entry that pair `j` of a SCHED_EDIT body names (R22). -/
def pairEntry (pairs : List Byte) (j : Nat) : Entry :=
  { kind := kindNamed (pairs.getD (2 * j) 0).toNat, owner := (pairs.getD (2 * j + 1) 0).toNat }

theorem slotKindOf_eq (b : Byte) : slotKindOf b = if b.toNat ≤ 3 then some (kindNamed b.toNat) else none := by
  simp only [slotKindOf, ← BitVec.toNat_inj, BitVec.ofNat_eq_ofNat, BitVec.toNat_ofNat]
  match b.toNat with
  | 0 | 1 | 2 | 3 => rfl
  | n + 4 => simp

/-- A pair is an entry where both its bytes are in range (R22, R23). -/
theorem entryOf_eq (k o : Byte) : entryOf k o =
    if k.toNat ≤ 3 ∧ o.toNat ≤ 31 then some { kind := kindNamed k.toNat, owner := o.toNat } else none := by
  rw [entryOf, slotKindOf_eq]
  by_cases hk : k.toNat ≤ 3
  · simp only [hk, if_true, true_and]
  · simp only [hk, if_false, false_and]

theorem entryOf_fits {pairs : List Byte} {j : Nat} (h : PairFits pairs j) :
    entryOf (pairs.getD (2 * j) 0) (pairs.getD (2 * j + 1) 0) = some (pairEntry pairs j) :=
  (entryOf_eq _ _).trans (if_pos h)

theorem entryOf_unfit {pairs : List Byte} {j : Nat} (h : ¬ PairFits pairs j) :
    entryOf (pairs.getD (2 * j) 0) (pairs.getD (2 * j + 1) 0) = none :=
  (entryOf_eq _ _).trans (if_neg h)

/-- A body of `k + 1` pairs begins with one of them. -/
theorem exists_pair_of_length {k : Nat} {pairs : List Byte} (hp : pairs.length = 2 * (k + 1)) :
    ∃ b o rest, pairs = b :: o :: rest ∧ rest.length = 2 * k := by
  match pairs, hp with
  | b :: o :: rest, hp => exact ⟨b, o, rest, rfl, by simpa [Nat.mul_add] using hp⟩

theorem entriesOf_eq_some {k : Nat} {pairs : List Byte} (hp : pairs.length = 2 * k) (hfit : ∀ j < k, PairFits pairs j) :
    entriesOf pairs = some ((List.range k).map (pairEntry pairs)) := by
  induction k generalizing pairs with
  | zero => simp [List.length_eq_zero_iff.mp hp, entriesOf]
  | succ k ih =>
    obtain ⟨b, o, rest, rfl, hlen⟩ := exists_pair_of_length hp
    have hrest : entriesOf rest = some ((List.range k).map (pairEntry rest)) :=
      ih hlen fun j hj => hfit (j + 1) (by omega)
    have hfirst : entryOf b o = some (pairEntry (b :: o :: rest) 0) := entryOf_fits (hfit 0 (by omega))
    rw [entriesOf, hfirst, hrest, List.range_succ_eq_map, List.map_cons, List.map_map]
    rfl

theorem entriesOf_eq_none {k j : Nat} {pairs : List Byte} (hp : pairs.length = 2 * k) (hj : j < k)
    (hfit : ¬ PairFits pairs j) : entriesOf pairs = none := by
  induction k generalizing pairs j with
  | zero => omega
  | succ k ih =>
    obtain ⟨b, o, rest, rfl, hlen⟩ := exists_pair_of_length hp
    cases j with
    | zero =>
      have hfirst : entryOf b o = none := entryOf_unfit hfit
      rw [entriesOf, hfirst]
    | succ j =>
      have hrest : entriesOf rest = none := ih hlen (by omega) hfit
      rw [entriesOf, hrest]
      cases entryOf b o <;> rfl

theorem entryAt_setIfInBounds (v : Vector Entry 60) (e : Entry) (start n i : Nat) (hi : i < 60) :
    entryAt { entries := v.setIfInBounds start e, length := n } i =
      if i = start then e else entryAt { entries := v, length := n } i := by
  simp only [entryAt, Vector.getElem?_setIfInBounds]
  grind

/-- Entries written from an index on stand from there on, and every other entry is kept (R24). -/
theorem entryAt_writeEntries (es : List Entry) (v : Vector Entry 60) (start n i : Nat) (hi : i < 60) :
    entryAt { entries := writeEntries v start es, length := n } i =
      if start ≤ i then (es[i - start]?).getD (entryAt { entries := v, length := n } i)
      else entryAt { entries := v, length := n } i := by
  induction es generalizing v start with
  | nil => simp [writeEntries]
  | cons e es ih =>
    rw [writeEntries, ih, entryAt_setIfInBounds _ _ _ _ _ hi]
    rcases Nat.lt_trichotomy i start with hlt | rfl | hgt
    · simp [show ¬ start + 1 ≤ i by omega, show ¬ start ≤ i by omega, show i ≠ start by omega]
    · simp
    · have hstep : i - start = i - (start + 1) + 1 := by omega
      simp [hstep, show start + 1 ≤ i by omega, show start ≤ i by omega, show i ≠ start by omega]

/-- The fields of SCHED_EDIT are in range (R23). -/
def EditFits (start count length : Byte) (pairs : List Byte) : Prop :=
  start ≤ 59 ∧ start.toNat + count.toNat ≤ 60 ∧ (length = 0 ∨ (4 ≤ length ∧ length ≤ 60)) ∧
    ¬(count = 0 ∧ length = 0) ∧ ∀ j < count.toNat, PairFits pairs j

/-- The pending bank after an accepted SCHED_EDIT (R24). -/
def editedBank (b : Bank) (start count length : Byte) (pairs : List Byte) : Bank :=
  { entries := writeEntries b.entries start.toNat ((List.range count.toNat).map (pairEntry pairs)),
    length := if length = 0 then b.length else length.toNat }

theorem entryAt_editedBank (b : Bank) (start count length : Byte) (pairs : List Byte) {i : Nat} (hi : i < 60) :
    entryAt (editedBank b start count length pairs) i =
      if start.toNat ≤ i ∧ i < start.toNat + count.toNat then pairEntry pairs (i - start.toNat) else entryAt b i := by
  have hrest : ∀ n, entryAt { entries := b.entries, length := n } i = entryAt b i := fun _ => rfl
  rw [editedBank, entryAt_writeEntries _ _ _ _ _ hi, hrest]
  by_cases hs : start.toNat ≤ i
  · by_cases hc : i - start.toNat < count.toNat
    · simp [hs, List.getElem?_range hc, show i < start.toNat + count.toNat by omega]
    · simp [hs, List.getElem?_eq_none (show (List.range count.toNat).length ≤ i - start.toNat by simpa using hc),
        show ¬ i < start.toNat + count.toNat by omega]
  · simp [hs]

section Edit
variable {tag start count length : Byte} {pairs : List Byte} {s : State}

theorem takeSchedEdit_busy (body : List Byte) (hc : s.sbk.commit.isSome) :
    takeSchedEdit tag body s = reply kindSchedEdit tag .busy [] s := if_pos hc

/-- The model's own ranges of the three fields are those of R23. -/
theorem editRanges_iff (start count length : Byte) :
    (start ≤ 59 ∧ start.toNat + count.toNat ≤ 60 ∧ (length = 0 ∨ (4 ≤ length ∧ length ≤ 60)) ∧ ¬(count = 0 ∧ length = 0)) ↔
      (start.toNat ≤ 59 ∧ count.toNat ≤ 60 ∧ start.toNat + count.toNat ≤ 60 ∧ newLengthFits length.toNat = true ∧
        ¬(count.toNat = 0 ∧ length.toNat = 0)) := by
  simp only [newLengthFits, decide_eq_true_eq, ← BitVec.toNat_inj, BitVec.le_def, BitVec.ofNat_eq_ofNat,
    BitVec.toNat_ofNat]
  omega

theorem takeSchedEdit_entries {es : List Entry} (hc : s.sbk.commit = none) (he : entriesOf pairs = some es) :
    takeSchedEdit tag (start :: count :: length :: pairs) s =
      if start.toNat ≤ 59 ∧ count.toNat ≤ 60 ∧ start.toNat + count.toNat ≤ 60 ∧ newLengthFits length.toNat = true ∧
          ¬(count.toNat = 0 ∧ length.toNat = 0) then
        reply kindSchedEdit tag .ok []
          { s with sbk.edit := { entries := writeEntries s.sbk.edit.entries start.toNat es,
                                 length := if length.toNat = 0 then s.sbk.edit.length else length.toNat },
                   sbk.edited := true }
      else reply kindSchedEdit tag .badArgument [] s := by
  simp only [takeSchedEdit, hc, List.drop_succ_cons, List.drop_zero, he]
  rfl

theorem takeSchedEdit_no_entries (hc : s.sbk.commit = none) (he : entriesOf pairs = none) :
    takeSchedEdit tag (start :: count :: length :: pairs) s = reply kindSchedEdit tag .badArgument [] s := by
  simp only [takeSchedEdit, hc, List.drop_succ_cons, List.drop_zero, he]
  rfl

theorem takeSchedEdit_fits (hp : pairs.length = 2 * count.toNat) (hc : s.sbk.commit = none)
    (hfit : EditFits start count length pairs) : takeSchedEdit tag (start :: count :: length :: pairs) s =
      reply kindSchedEdit tag .ok []
        { s with sbk.edit := editedBank s.sbk.edit start count length pairs, sbk.edited := true } := by
  obtain ⟨hstart, hend, hlength, hsome, hpairs⟩ := hfit
  have hranges := (editRanges_iff start count length).mp ⟨hstart, hend, hlength, hsome⟩
  have hzero : length.toNat = 0 ↔ length = 0 := BitVec.toNat_inj (y := 0)
  rw [takeSchedEdit_entries hc (entriesOf_eq_some hp hpairs), if_pos hranges]
  simp only [editedBank, hzero]

theorem takeSchedEdit_unfit (hp : pairs.length = 2 * count.toNat) (hc : s.sbk.commit = none)
    (hfit : ¬ EditFits start count length pairs) : takeSchedEdit tag (start :: count :: length :: pairs) s =
      reply kindSchedEdit tag .badArgument [] s := by
  by_cases hpairs : ∀ j < count.toNat, PairFits pairs j
  · rw [takeSchedEdit_entries hc (entriesOf_eq_some hp hpairs), if_neg]
    intro hranges
    obtain ⟨hstart, hend, hlength, hsome⟩ := (editRanges_iff start count length).mpr hranges
    exact hfit ⟨hstart, hend, hlength, hsome, hpairs⟩
  · push Not at hpairs
    obtain ⟨j, hj, hpair⟩ := hpairs
    exact takeSchedEdit_no_entries hc (entriesOf_eq_none hp hj hpair)

end Edit

/-- Settles O17: BUSY, a field out of range, and the pending bank an accepted edit leaves. -/
theorem schedEditWritesThePendingBank : Obligations.SchedEditWritesThePendingBank := by
  intro tag start count length pairs rest s hp h
  rw [exec_schedEdit hp h]
  refine ⟨fun hc => ?_, fun hc hfit => ?_, fun hc hfit => ?_⟩
  · rw [takeSchedEdit_busy _ (s := taken rest s) hc]
    rfl
  · rw [takeSchedEdit_unfit (s := taken rest s) hp hc hfit]
    rfl
  · refine ⟨editedBank s.sbk.edit start count length pairs, ?_, rfl, fun i hi => ?_⟩
    · rw [takeSchedEdit_fits (s := taken rest s) hp hc hfit]
      rfl
    · exact entryAt_editedBank s.sbk.edit start count length pairs hi

end Sys2Proof.Machine
end

section
/-! Counters and offered notices in the terms of the claims (R58, R175, R176, R183, R184, R191, R192). -/

namespace Sys2Proof.Machine

-- One proof after another, not in parallel: the whole text compiles under a bound on memory.
set_option Elab.async false

/-! ### Counters (R58, R175, R176) -/

theorem globalIndex_injective : Function.Injective globalIndex := by
  intro c d h
  have hidx : c.ctorIdx = d.ctorIdx := congrArg Fin.val h
  rw [← GlobalCounter.ofNat_ctorIdx c, hidx, GlobalCounter.ofNat_ctorIdx]

theorem stationIndex_injective : Function.Injective stationIndex := by
  intro c d h
  have hidx : c.ctorIdx = d.ctorIdx := congrArg Fin.val h
  rw [← StationCounter.ofNat_ctorIdx c, hidx, StationCounter.ofNat_ctorIdx]

theorem globalCount_countGlobal_same (c : GlobalCounter) (s : State) :
    globalCount c (countGlobal c s) = min (globalCount c s + 1) 65535 := by
  simp [globalCount, countGlobal, advance, Config.counterMax]

theorem globalCount_countGlobal_other {c d : GlobalCounter} (h : d ≠ c) (s : State) :
    globalCount d (countGlobal c s) = globalCount d s := by
  have hidx : (globalIndex c).val ≠ (globalIndex d).val := fun e => h (globalIndex_injective (Fin.ext e)).symm
  simp [globalCount, countGlobal, Vector.getElem_set_ne, hidx]

theorem stationCount_countIn_same (c : StationCounter) (st : Station) :
    stationCount c (countIn c st) = min (stationCount c st + 1) 65535 := by
  simp [stationCount, countIn, advance, Config.counterMax]

theorem stationCount_countIn_other {c d : StationCounter} (h : d ≠ c) (st : Station) :
    stationCount d (countIn c st) = stationCount d st := by
  have hidx : (stationIndex c).val ≠ (stationIndex d).val := fun e => h (stationIndex_injective (Fin.ext e)).symm
  simp [stationCount, countIn, Vector.getElem_set_ne, hidx]

/-! ### Offered notices (R183, R184, R191, R192) -/

/-- ATTN at the first notice: asserted, and in pulse mode with its pulse started (R191, R192). -/
theorem attnOnFirst_eq (s : State) : attnOnFirst s =
    { s with ntq.attn := true,
             ntq.pulse := if s.rex.config.attnMode = .pulse then some s.rex.config.pulseLength else s.ntq.pulse } := by
  unfold attnOnFirst
  split <;> rename_i hm <;> simp [hm]

theorem offer_to_empty (n : Notice) {s : State} (hm : s.ntq.marker = none) (hn : s.ntq.notices = []) :
    offer n s = attnOnFirst { s with ntq.notices := [n] } := by
  simp [offer, hm, hn, Config.noticePlaces]

theorem offer_behind (n : Notice) {s : State} (hm : s.ntq.marker = none) (hn : s.ntq.notices ≠ [])
    (hl : s.ntq.notices.length < 23) : offer n s = { s with ntq.notices := s.ntq.notices ++ [n] } := by
  simp [offer, hm, hn, hl, Config.noticePlaces]

theorem offer_to_full (n : Notice) {s : State} (hm : s.ntq.marker = none) (hl : 23 ≤ s.ntq.notices.length) :
    offer n s = countGlobal .noticesDropped { s with ntq.marker := some 1 } := by
  simp [offer, hm, Nat.not_lt.mpr hl, Config.noticePlaces]

theorem offer_behind_marker (n : Notice) {s : State} {k : Nat} (hm : s.ntq.marker = some k) :
    offer n s = countGlobal .noticesDropped { s with ntq.marker := some (min (k + 1) 255) } := by
  simp [offer, hm, Config.creditMax]

/-- Settles O48: the four cases of an offer, and the two counter sets, whose places are distinct. -/
theorem noticesJoinOrAreDropped : Obligations.NoticesJoinOrAreDropped := by
  refine ⟨fun n s => ⟨fun hm hn => ?_, fun hm hn hl => offer_behind n hm hn hl, fun hm hl => offer_to_full n hm hl,
    fun k hm => offer_behind_marker n hm⟩, fun c s => ?_, fun c st => ?_⟩
  · rw [offer_to_empty n hm hn, attnOnFirst_eq]
  · exact ⟨rfl, globalCount_countGlobal_same c s, fun d hd => globalCount_countGlobal_other hd s⟩
  · exact ⟨rfl, stationCount_countIn_same c st, fun d hd => stationCount_countIn_other hd st⟩

end Sys2Proof.Machine
end

section
/-! CONFIGURE, READ_CONFIG, ENROLL, STATION_QUERY and STRANGERS in the terms of the claims (R39 to R41, R45, R51, R56, R57,
R171, R172, R192). -/

namespace Sys2Proof.Machine

-- One proof after another, not in parallel: the whole text compiles under a bound on memory.
set_option Elab.async false

/-! ### Taking the requests (R165, R166) -/

theorem exec_configure {tag : Byte} {body : List Byte} {rest : List Request} {s : State} (hl : body.length = 9)
    (h : CanTake ⟨0x03, tag, body⟩ rest s) :
    exec (.configure tag body) s = .next (arbitrate (takeConfigure tag body { s with rex.inbox := rest })) :=
  request_suits (takeConfigure tag body) h (decide_eq_true hl)

theorem exec_enroll {tag a c m h : Byte} {rest : List Request} {s : State}
    (ht : CanTake ⟨0x0A, tag, [a, c, m, h]⟩ rest s) : exec (.enroll tag [a, c, m, h]) s =
      .next (arbitrate (takeEnroll tag [a, c, m, h] { s with rex.inbox := rest })) :=
  request_suits (takeEnroll tag [a, c, m, h]) ht rfl

theorem exec_stationQuery {tag a : Byte} {rest : List Request} {s : State} (h : CanTake ⟨0x0C, tag, [a]⟩ rest s) :
    exec (.stationQuery tag [a]) s = .next (arbitrate (takeStationQuery tag [a] { s with rex.inbox := rest })) :=
  request_suits (takeStationQuery tag [a]) h rfl

theorem exec_strangers {tag : Byte} {rest : List Request} {s : State} (h : CanTake ⟨0x0D, tag, []⟩ rest s) :
    exec (.strangers tag []) s = .next (arbitrate (takeStrangers tag { s with rex.inbox := rest })) :=
  request_suits (takeStrangers tag) h rfl

/-- Taking a request does not reach the records (R38, R165). -/
theorem station_inbox (a : Nat) (rest : List Request) (s : State) :
    station a { s with rex.inbox := rest } = station a s := rfl

theorem setStation_inbox (a : Nat) (r : Option Station) (rest : List Request) (s : State) :
    setStation a r { s with rex.inbox := rest } = { setStation a r s with rex.inbox := rest } := by
  unfold setStation
  split <;> rfl

/-- An address byte names a station (R38). -/
theorem stationAddress_byte (a : Byte) : stationAddress a.toNat = true ↔ 1 ≤ a ∧ a ≤ 30 := by
  simp [stationAddress, BitVec.le_def]

theorem not_stationAddress_byte {a : Byte} (h : a = 0 ∨ 30 < a) : stationAddress a.toNat = false := by
  rw [← Bool.not_eq_true, stationAddress_byte]
  rcases h with rfl | h
  · decide
  · exact fun ⟨_, hle⟩ => absurd h (BitVec.not_lt.mpr hle)

theorem stationAddress_of_station {a : Nat} {s : State} {st : Station} (h : station a s = some st) :
    stationAddress a = true :=
  decide_eq_true (station_isSome_range h)

/-! ### CONFIGURE and READ_CONFIG (R171, R172) -/

/-- The nine bytes of CONFIGURE lie in their ranges (R171). -/
def SettingsFit (b0 b1 b2 b3 b4 b5 b6 b7 b8 : Byte) : Prop :=
  b0 ≤ 3 ∧ 8 ≤ b1 ∧ b1 ≤ 64 ∧ 1 ≤ b2 ∧ b2 ≤ 8 ∧ 1 ≤ b3 ∧ b3 ≤ 16 ∧ b4 ≤ 7 ∧ b5 ≤ 3 ∧ 1 ≤ b6 ∧ b6 ≤ 8 ∧ b7 ≤ 1 ∧ 1 ≤ b8

/-- The settings that the nine bytes of CONFIGURE spell (R171). -/
def settingsOfBytes (b0 b1 b2 b3 b4 b5 b6 b7 b8 : Byte) : Settings :=
  { busRate := b0.toNat, guard := b1.toNat, lockIn := b2.toNat, lockOut := b3.toNat, retryLimit := b4.toNat,
    repeats := b5.toNat, faultStreak := b6.toNat, attnMode := if b7 = 0 then .level else .pulse,
    pulseLength := b8.toNat }

section Configure
variable (b0 b1 b2 b3 b4 b5 b6 b7 b8 : Byte)

theorem settingsOf_fits (h : SettingsFit b0 b1 b2 b3 b4 b5 b6 b7 b8) :
    settingsOf [b0, b1, b2, b3, b4, b5, b6, b7, b8] = some (settingsOfBytes b0 b1 b2 b3 b4 b5 b6 b7 b8) := by
  have hzero : b7 = 0 ↔ b7.toNat = 0 := BitVec.toNat_inj.symm
  simp only [SettingsFit, BitVec.le_def] at h
  simp only [settingsOf, numAt, byteAt, List.getD_cons_zero, List.getD_cons_succ, settingsOfBytes, hzero]
  refine if_pos ?_
  simpa [and_assoc] using h

theorem settingsOf_unfit (h : ¬ SettingsFit b0 b1 b2 b3 b4 b5 b6 b7 b8) :
    settingsOf [b0, b1, b2, b3, b4, b5, b6, b7, b8] = none := by
  simp only [SettingsFit, BitVec.le_def] at h
  simp only [settingsOf, numAt, byteAt, List.getD_cons_zero, List.getD_cons_succ]
  refine if_neg fun hr => h ?_
  simpa [and_assoc] using hr

end Configure

/-- New settings, their effect on the counts, and the change of the ATTN mode, whole (R51, R171, R192). -/
theorem applySettings_eq (c : Settings) (s : State) : applySettings c s =
    { s with
      rex.config := c,
      stt.records := s.stt.records.map (Option.map (limitCounts c)),
      ntq.attn :=
        if c.attnMode = .level then (if s.rex.config.attnMode = .pulse then !noticeQueueEmpty s else s.ntq.attn)
        else (if s.rex.config.attnMode = .level then false else s.ntq.attn),
      ntq.pulse := if c.attnMode = .level ∧ s.rex.config.attnMode = .pulse then none else s.ntq.pulse } := by
  unfold applySettings changeAttnMode
  cases hold : s.rex.config.attnMode <;> cases hnew : c.attnMode <;> simp [onStations, noticeQueueEmpty]

/-- Settles O7: CONFIGURE by the engine's state and by the ranges, and READ_CONFIG. -/
theorem configureTakesAllNineOrNone : Obligations.ConfigureTakesAllNineOrNone := by
  refine ⟨fun tag body rest s hl h hs => ?_, fun tag b0 b1 b2 b3 b4 b5 b6 b7 b8 rest s h hs => ?_, fun tag rest s h => ?_⟩
  · rw [exec_configure hl h]
    simp only [takeConfigure, hs, if_false]
    rfl
  · rw [exec_configure rfl h]
    simp only [takeConfigure, hs, if_true]
    split
    · rename_i hfit
      have hmode : (settingsOfBytes b0 b1 b2 b3 b4 b5 b6 b7 b8).attnMode = .level ↔ b7 = 0 := by
        by_cases h7 : b7 = 0 <;> simp [settingsOfBytes, h7]
      rw [settingsOf_fits b0 b1 b2 b3 b4 b5 b6 b7 b8 hfit]
      simp only [applySettings_eq, hmode]
      rfl
    · rename_i hunfit
      rw [settingsOf_unfit b0 b1 b2 b3 b4 b5 b6 b7 b8 hunfit]
      rfl
  · have e : exec (.readConfig tag []) s =
        .next (arbitrate (reply kindReadConfig tag .ok (settingsBytes s.rex.config) { s with rex.inbox := rest })) :=
      request_suits (fun t => reply kindReadConfig tag .ok (settingsBytes t.rex.config) t) h rfl
    rw [e]
    cases hm : s.rex.config.attnMode <;> simp only [settingsBytes, hm] <;> rfl

/-! ### ENROLL (R39 to R41, R57) -/

theorem classOf_isSome (c : Byte) : (classOf c).isSome ↔ c ≤ 0x0F ∨ c = 0xFF := by
  unfold classOf
  split
  · simp only [*, Option.isSome_some, or_true]
  · split <;> simp only [*, Option.isSome_some, Option.isSome_none, or_self, true_or, Bool.false_eq_true]

theorem classOf_eq {c : Byte} (h : c ≤ 0x0F ∨ c = 0xFF) : classOf c = some (if c = 0xFF then .any else .is c) := by
  unfold classOf
  by_cases hff : c = 0xFF
  · rw [if_pos hff, if_pos hff]
  · rw [if_neg hff, if_neg hff, if_pos (h.resolve_right hff)]

/-- A byte up to a small bound is one of the numbers up to it. -/
theorem byte_le_three {m : Byte} (h : m ≤ 3) : m = 0 ∨ m = 1 ∨ m = 2 ∨ m = 3 := by
  simp only [BitVec.le_def, BitVec.ofNat_eq_ofNat, BitVec.toNat_ofNat] at h
  simp only [← BitVec.toNat_inj, BitVec.ofNat_eq_ofNat, BitVec.toNat_ofNat]
  omega

theorem noticeModeOf_eq {m : Byte} (h : m ≤ 3) :
    noticeModeOf m = some (match m.toNat with | 0 => .none | 1 => .onLoss | 2 => .onGain | _ => .both) := by
  rcases byte_le_three h with rfl | rfl | rfl | rfl <;> rfl

theorem noticeModeOf_none {m : Byte} (h : ¬ m ≤ 3) : noticeModeOf m = none := by
  have hne : ∀ k : Byte, k ≤ 3 → m ≠ k := fun k hk e => h (e ▸ hk)
  simp only [noticeModeOf, hne 0 (by decide), hne 1 (by decide), hne 2 (by decide), hne 3 (by decide), if_false]

theorem flagOf_eq {h : Byte} (hh : h ≤ 1) : flagOf h = some (decide (h = 1)) := by
  rcases byte_le_three (BitVec.le_trans hh (by decide)) with rfl | rfl | rfl | rfl
  · rfl
  · rfl
  all_goals exact absurd hh (by decide)

theorem flagOf_none {h : Byte} (hh : ¬ h ≤ 1) : flagOf h = none := by
  have hne : ∀ k : Byte, k ≤ 1 → h ≠ k := fun k hk e => hh (e ▸ hk)
  simp only [flagOf, hne 0 (by decide), hne 1 (by decide), if_false]

/-- The four fields of ENROLL lie in their ranges (R40). -/
def EnrollFits (a c m h : Byte) : Prop := 1 ≤ a ∧ a ≤ 30 ∧ (c ≤ 0x0F ∨ c = 0xFF) ∧ m ≤ 3 ∧ h ≤ 1

theorem takeEnroll_unfit {tag a c m h : Byte} {s : State} (hf : ¬ EnrollFits a c m h) :
    takeEnroll tag [a, c, m, h] s = reply kindEnroll tag .badArgument [] s := by
  simp only [takeEnroll]
  split
  · rename_i hc hm hh
    refine if_neg fun ha => hf ?_
    obtain ⟨hlo, hhi⟩ := (stationAddress_byte a).mp ha
    refine ⟨hlo, hhi, (classOf_isSome c).mp (Option.isSome_of_eq_some hc), ?_, ?_⟩
    · exact not_not.mp fun hn => Option.some_ne_none _ (hm.symm.trans (noticeModeOf_none hn))
    · exact not_not.mp fun hn => Option.some_ne_none _ (hh.symm.trans (flagOf_none hn))
  · rfl

/-- An address that leaves the stranger set does so whatever happens to its record (R57). -/
theorem removeStranger_setStation (a b : Nat) (r : Option Station) (s : State) :
    removeStranger a (setStation b r s) = setStation b r (removeStranger a s) := by
  unfold setStation removeStranger
  split <;> rfl

theorem removeStranger_eq (a : Nat) (s : State) :
    removeStranger a s = { s with stt.strangers := s.stt.strangers.filter fun x => x.address ≠ a } := by
  simp [removeStranger, bne, decide_not, ← beq_eq_decide]

theorem removeStranger_inbox (a : Nat) (rest : List Request) (s : State) :
    removeStranger a { s with rex.inbox := rest } = { removeStranger a s with rex.inbox := rest } := rfl

theorem takeEnroll_new {tag a c m h : Byte} {s : State} (hf : EnrollFits a c m h) (hst : station a.toNat s = none) :
    takeEnroll tag [a, c, m, h] s = reply kindEnroll tag .ok [0x00] (setStation a.toNat (some (newStation
      (if c = 0xFF then .any else .is c)
      (match m.toNat with | 0 => .none | 1 => .onLoss | 2 => .onGain | _ => .both) (decide (h = 1))))
      (removeStranger a.toNat s)) := by
  obtain ⟨hlo, hhi, hc, hm, hh⟩ := hf
  simp only [takeEnroll, numAt, byteAt, List.getD_cons_zero, List.getD_cons_succ, classOf_eq hc, noticeModeOf_eq hm,
    flagOf_eq hh, (stationAddress_byte a).mpr ⟨hlo, hhi⟩, hst, removeStranger_setStation, if_true]

theorem takeEnroll_update {tag a c m h : Byte} {s : State} {st : Station} (hf : EnrollFits a c m h)
    (hst : station a.toNat s = some st) :
    takeEnroll tag [a, c, m, h] s = reply kindEnroll tag .ok [0x01] (setStation a.toNat (some { st with
      cls := if c = 0xFF then .any else .is c,
      mode := match m.toNat with | 0 => .none | 1 => .onLoss | 2 => .onGain | _ => .both, hold := decide (h = 1) })
      (removeStranger a.toNat s)) := by
  obtain ⟨hlo, hhi, hc, hm, hh⟩ := hf
  simp only [takeEnroll, numAt, byteAt, List.getD_cons_zero, List.getD_cons_succ, classOf_eq hc, noticeModeOf_eq hm,
    flagOf_eq hh, (stationAddress_byte a).mpr ⟨hlo, hhi⟩, hst, onStation_some hst, removeStranger_setStation, if_true]

/-- Settles O22: ENROLL by its ranges and by whether the address has a record. -/
theorem enrollCreatesOrUpdates : Obligations.EnrollCreatesOrUpdates := by
  intro tag a c m h rest s ht fits cls mode left
  rw [exec_enroll ht]
  refine ⟨fun hf => ?_, fun hf hst => ?_, fun st hf hst => ?_⟩
  · rw [takeEnroll_unfit hf]
    rfl
  · rw [takeEnroll_new (s := { s with rex.inbox := rest }) hf hst, removeStranger_inbox, removeStranger_eq,
      setStation_inbox]
    rfl
  · rw [takeEnroll_update (s := { s with rex.inbox := rest }) hf hst, removeStranger_inbox, removeStranger_eq,
      setStation_inbox]
    rfl

/-! ### STATION_QUERY and STRANGERS (R45, R56) -/

/-- The items of STATION_QUERY in the terms of the claims (R45). -/
theorem stationItems_eq (st : Station) : stationItems st =
    [(match st.cls with | .any => 0xFF | .is c => c),
      (match st.mode with | .none => 0 | .onLoss => 1 | .onGain => 2 | .both => 3), (if st.hold then 1 else 0),
      (match st.presence with | .absent => 0 | .acquiring => 1 | .present => 2), BitVec.ofNat 8 st.good,
      BitVec.ofNat 8 st.miss, st.downNext.setWidth 8, st.upExpected.setWidth 8] ++
     (match st.lastAccepted with | none => [0, 0] | some q => [1, q.setWidth 8]) ++
     [BitVec.ofNat 8 st.queue.length] ++
     (match st.inFlight with
      | none => [0, 0, 0, 0, 0, 0, 0, 0]
      | some r => [1, BitVec.ofNat 8 (r.handle / 256), BitVec.ofNat 8 r.handle, BitVec.ofNat 8 r.index,
          BitVec.ofNat 8 r.retries, BitVec.ofNat 8 r.busy, (match r.phase with | .ready => 0 | .awaitingAck => 1),
          (if r.started then 1 else 0)]) ++
     (match st.context with
      | none => [0, 0, 0]
      | some c => [1, BitVec.ofNat 8 c.bytes.length, BitVec.ofNat 8 c.segments]) ++
     [if st.heard then 1 else 0] := by
  have hcls : classCode st.cls = match st.cls with | .any => 0xFF | .is c => c := by cases st.cls <;> rfl
  have hmode : noticeModeCode st.mode = match st.mode with | .none => 0 | .onLoss => 1 | .onGain => 2 | .both => 3 := by
    cases st.mode <;> rfl
  have hpresence : presenceCode st.presence = match st.presence with | .absent => 0 | .acquiring => 1 | .present => 2 := by
    cases st.presence <;> rfl
  have hlast : optionalSeq st.lastAccepted = match st.lastAccepted with | none => [0, 0] | some q => [1, q.setWidth 8] := by
    cases st.lastAccepted <;> rfl
  have hinFlight : queryInFlight st.inFlight = match st.inFlight with
      | none => [0, 0, 0, 0, 0, 0, 0, 0]
      | some r => [1, BitVec.ofNat 8 (r.handle / 256), BitVec.ofNat 8 r.handle, BitVec.ofNat 8 r.index,
          BitVec.ofNat 8 r.retries, BitVec.ofNat 8 r.busy, (match r.phase with | .ready => 0 | .awaitingAck => 1),
          (if r.started then 1 else 0)] := by
    cases st.inFlight with
    | none => rfl
    | some r => cases hp : r.phase <;> simp only [queryInFlight, hp] <;> rfl
  have hcontext : queryContext st.context = match st.context with
      | none => [0, 0, 0]
      | some c => [1, BitVec.ofNat 8 c.bytes.length, BitVec.ofNat 8 c.segments] := by
    cases st.context <;> rfl
  rw [stationItems, hcls, hmode, hpresence, hlast, hinFlight, hcontext]
  rfl

/-- Settles O24: STATION_QUERY by its address and its record, and STRANGERS. -/
theorem stationsAndStrangersAreRead : Obligations.StationsAndStrangersAreRead := by
  refine ⟨fun tag a rest s h => ?_, fun tag rest s h => ?_⟩
  · rw [exec_stationQuery h]
    refine ⟨fun ha => ?_, fun hlo hhi hst => ?_, fun st hst => ?_⟩
    · simp only [takeStationQuery, numAt, byteAt, List.getD_cons_zero, not_stationAddress_byte ha]
      rfl
    · simp only [takeStationQuery, numAt, byteAt, List.getD_cons_zero, (stationAddress_byte a).mpr ⟨hlo, hhi⟩,
        station_inbox, hst]
      rfl
    · simp only [takeStationQuery, numAt, byteAt, List.getD_cons_zero, stationAddress_of_station hst, station_inbox, hst,
        stationItems_eq]
      rfl
  · have hbytes : strangerBytes = fun x =>
        [BitVec.ofNat 8 x.address, x.cls, match x.reason with | .unknown => 0 | .cls => 1] := by
      funext x
      cases hr : x.reason <;> simp only [strangerBytes, hr] <;> rfl
    rw [exec_strangers h, takeStrangers, hbytes]
    rfl

end Sys2Proof.Machine
end

section
/-! Ending a station's messages: what the end of one message and of a whole queue does to the records, the pool, the notices
and the counters (R85, R97, R103), and from it RETIRE (R43, R122). -/

namespace Sys2Proof.Machine

-- One proof after another, not in parallel: the whole text compiles under a bound on memory.
set_option Elab.async false

/-! ### Notices and counters beside the records and the pool (R58, R183) -/

/-- A state with other records and another pool. -/
def withRecords (records : Vector (Option Station) 30) (pool : Mpl) (s : State) : State :=
  { s with stt.records := records, mpl := pool }

/-- Where an offered notice finds the notice queue (R183, R184). -/
theorem noticeQueue_cases (s : State) :
    (s.ntq.marker = none ∧ s.ntq.notices = []) ∨
    (s.ntq.marker = none ∧ s.ntq.notices ≠ [] ∧ s.ntq.notices.length < 23) ∨
    (s.ntq.marker = none ∧ 23 ≤ s.ntq.notices.length) ∨ ∃ k, s.ntq.marker = some k := by
  cases hm : s.ntq.marker with
  | some k => exact .inr (.inr (.inr ⟨k, rfl⟩))
  | none =>
    by_cases hn : s.ntq.notices = []
    · exact .inl ⟨rfl, hn⟩
    · rcases Nat.lt_or_ge s.ntq.notices.length 23 with hl | hl
      · exact .inr (.inl ⟨rfl, hn, hl⟩)
      · exact .inr (.inr (.inl ⟨rfl, hl⟩))

/-- The notice queue after an offer (R183, R184, R191, R192). -/
def offeredTo (n : Notice) (c : Settings) (q : Ntq) : Ntq :=
  match q.marker with
  | some k => { q with marker := some (min (k + 1) 255) }
  | none =>
    if 23 ≤ q.notices.length then { q with marker := some 1 }
    else if q.notices = [] then
      { q with notices := [n], attn := true, pulse := if c.attnMode = .pulse then some c.pulseLength else q.pulse }
    else { q with notices := q.notices ++ [n] }

/-- An offered notice is dropped: a marker stands, or no notice place is free (R184). -/
def dropsOffers (q : Ntq) : Bool := q.marker.isSome || decide (23 ≤ q.notices.length)

/-- An offer changes the notice queue, and counts the notice where it is dropped (R183, R184). -/
theorem offer_eq (n : Notice) (s : State) : offer n s =
    if dropsOffers s.ntq then countGlobal .noticesDropped { s with ntq := offeredTo n s.rex.config s.ntq }
    else { s with ntq := offeredTo n s.rex.config s.ntq } := by
  rcases noticeQueue_cases s with ⟨hm, hn⟩ | ⟨hm, hn, hl⟩ | ⟨hm, hl⟩ | ⟨k, hm⟩
  · rw [offer_to_empty n hm hn, attnOnFirst_eq]
    simp [dropsOffers, offeredTo, hm, hn]
  · rw [offer_behind n hm hn hl]
    simp [dropsOffers, offeredTo, hm, hn, Nat.not_le.mpr hl]
  · rw [offer_to_full n hm hl]
    simp [dropsOffers, offeredTo, hm, hl]
  · rw [offer_behind_marker n hm]
    simp [dropsOffers, offeredTo, hm]

theorem offer_withRecords (n : Notice) (v : Vector (Option Station) 30) (p : Mpl) (s : State) :
    offer n (withRecords v p s) = withRecords v p (offer n s) := by
  have hsame : (withRecords v p s).ntq = s.ntq := rfl
  rw [offer_eq, offer_eq, hsame]
  split <;> rfl

theorem offer_inbox (n : Notice) (rest : List Request) (s : State) :
    offer n { s with rex.inbox := rest } = { offer n s with rex.inbox := rest } := by
  rw [offer_eq, offer_eq]
  dsimp only
  split <;> rfl

/-- An offered notice changes the notice queue and, where it is dropped, a counter (R183, R184). -/
theorem offer_frame (n : Notice) (s : State) :
    offer n s = { s with counters := (offer n s).counters, ntq := (offer n s).ntq } := by
  rw [offer_eq]
  split <;> rfl

theorem offer_countGlobal (n : Notice) (c : GlobalCounter) (s : State) :
    offer n (countGlobal c s) = countGlobal c (offer n s) := by
  rw [offer_eq, offer_eq, countGlobal_ntq, countGlobal_rex]
  split
  · exact countGlobal_comm .noticesDropped c { s with ntq := offeredTo n s.rex.config s.ntq }
  · rfl

theorem countAll_cons (c : GlobalCounter) (cs : List GlobalCounter) (s : State) :
    countAll (c :: cs) s = countAll cs (countGlobal c s) := rfl

theorem countAll_append (cs ds : List GlobalCounter) (s : State) :
    countAll (cs ++ ds) s = countAll ds (countAll cs s) := List.foldl_append

theorem offerAll_append (ns ms : List Notice) (s : State) : offerAll (ns ++ ms) s = offerAll ms (offerAll ns s) :=
  List.foldl_append

theorem countAll_withRecords (cs : List GlobalCounter) (v : Vector (Option Station) 30) (p : Mpl) (s : State) :
    countAll cs (withRecords v p s) = withRecords v p (countAll cs s) := by
  induction cs generalizing s with
  | nil => rfl
  | cons c cs ih => exact ih (countGlobal c s)

theorem offerAll_withRecords (ns : List Notice) (v : Vector (Option Station) 30) (p : Mpl) (s : State) :
    offerAll ns (withRecords v p s) = withRecords v p (offerAll ns s) := by
  induction ns generalizing s with
  | nil => rfl
  | cons n ns ih =>
    change offerAll ns (offer n (withRecords v p s)) = _
    rw [offer_withRecords, ih]
    rfl

theorem countAll_inbox (cs : List GlobalCounter) (rest : List Request) (s : State) :
    countAll cs { s with rex.inbox := rest } = { countAll cs s with rex.inbox := rest } := by
  induction cs generalizing s with
  | nil => rfl
  | cons c cs ih => exact ih (countGlobal c s)

theorem offerAll_inbox (ns : List Notice) (rest : List Request) (s : State) :
    offerAll ns { s with rex.inbox := rest } = { offerAll ns s with rex.inbox := rest } := by
  induction ns generalizing s with
  | nil => rfl
  | cons n ns ih =>
    change offerAll ns (offer n { s with rex.inbox := rest }) = _
    rw [offer_inbox, ih]
    rfl

theorem offerAll_countGlobal (ns : List Notice) (c : GlobalCounter) (s : State) :
    offerAll ns (countGlobal c s) = countGlobal c (offerAll ns s) := by
  induction ns generalizing s with
  | nil => rfl
  | cons n ns ih =>
    change offerAll ns (offer n (countGlobal c s)) = _
    rw [offer_countGlobal, ih]
    rfl

theorem offerAll_countAll (ns : List Notice) (cs : List GlobalCounter) (s : State) :
    offerAll ns (countAll cs s) = countAll cs (offerAll ns s) := by
  induction cs generalizing s with
  | nil => rfl
  | cons c cs ih => rw [countAll_cons, ih, offerAll_countGlobal, countAll_cons]

theorem countAll_frame (cs : List GlobalCounter) (s : State) :
    countAll cs s = { s with counters := (countAll cs s).counters } := by
  induction cs generalizing s with
  | nil => rfl
  | cons c cs ih => exact (ih (countGlobal c s)).trans rfl

theorem offerAll_frame (ns : List Notice) (s : State) :
    offerAll ns s = { s with counters := (offerAll ns s).counters, ntq := (offerAll ns s).ntq } := by
  induction ns generalizing s with
  | nil => rfl
  | cons n ns ih =>
    have hn := offer_frame n s
    change offerAll ns (offer n s) = { s with
      counters := (offerAll ns (offer n s)).counters, ntq := (offerAll ns (offer n s)).ntq }
    generalize offer n s = t at hn ⊢
    rw [ih t]
    rw [hn]

theorem offerAll_countAll_ntq (ns : List Notice) (cs : List GlobalCounter) (s : State) :
    (offerAll ns (countAll cs s)).ntq = (offerAll ns s).ntq := by
  rw [offerAll_countAll, countAll_frame]

theorem offerAll_countAll_frame (ns : List Notice) (cs : List GlobalCounter) (s : State) :
    offerAll ns (countAll cs s) =
      { s with counters := (offerAll ns (countAll cs s)).counters, ntq := (offerAll ns s).ntq } := by
  rw [← offerAll_countAll_ntq ns cs s]
  have hcount := countAll_frame cs s
  refine (offerAll_frame ns (countAll cs s)).trans ?_
  generalize offerAll ns (countAll cs s) = t
  rw [hcount]

/-! ### What happens at one station -/

/-- From `s` to `t` nothing changed but the record of one address and the pool, the notices offered, and the counters
advanced. -/
structure HappensAt (a : Nat) (ns : List Notice) (cs : List GlobalCounter) (s t : State) : Prop where
  frame : t = withRecords t.stt.records t.mpl (offerAll ns (countAll cs s))
  others : ∀ b, b ≠ a → station b t = station b s

theorem HappensAt.refl (a : Nat) (s : State) : HappensAt a [] [] s s := ⟨rfl, fun _ _ => rfl⟩

theorem HappensAt.trans {a : Nat} {ns ms : List Notice} {cs ds : List GlobalCounter} {s t u : State}
    (h : HappensAt a ns cs s t) (k : HappensAt a ms ds t u) : HappensAt a (ns ++ ms) (cs ++ ds) s u := by
  refine ⟨?_, fun b hb => (k.others b hb).trans (h.others b hb)⟩
  have hall : offerAll ms (countAll ds t) =
      withRecords t.stt.records t.mpl (offerAll (ns ++ ms) (countAll (cs ++ ds) s)) :=
    calc offerAll ms (countAll ds t)
        = offerAll ms (countAll ds (withRecords t.stt.records t.mpl (offerAll ns (countAll cs s)))) := by rw [← h.frame]
      _ = withRecords t.stt.records t.mpl (offerAll ms (countAll ds (offerAll ns (countAll cs s)))) := by
          rw [countAll_withRecords, offerAll_withRecords]
      _ = _ := by rw [← offerAll_countAll ns ds, ← countAll_append, ← offerAll_append]
  have hframe := k.frame
  rw [hall] at hframe
  exact hframe

/-- The frame of what happens at one station, in the terms of the claims. -/
theorem HappensAt.eq {a : Nat} {ns : List Notice} {cs : List GlobalCounter} {s t : State} (h : HappensAt a ns cs s t) :
    t = { s with stt.records := t.stt.records, mpl := t.mpl, counters := (offerAll ns (countAll cs s)).counters,
                 ntq := (offerAll ns s).ntq } := by
  have hframe := h.frame
  rw [offerAll_countAll_frame] at hframe
  exact hframe

theorem happensAt_setStation (a : Nat) (r : Option Station) (s : State) : HappensAt a [] [] s (setStation a r s) := by
  refine ⟨?_, fun b hb => station_setStation_other hb⟩
  unfold setStation
  split <;> rfl

theorem happensAt_onStation (a : Nat) (f : Station → Station) (s : State) : HappensAt a [] [] s (onStation a f s) := by
  unfold onStation
  split
  · exact happensAt_setStation a _ s
  · exact HappensAt.refl a s

theorem happensAt_pool (a : Nat) (p : Mpl) (s : State) : HappensAt a [] [] s { s with mpl := p } :=
  ⟨rfl, fun _ _ => rfl⟩

theorem happensAt_countGlobal (a : Nat) (c : GlobalCounter) (s : State) : HappensAt a [] [c] s (countGlobal c s) :=
  ⟨rfl, fun _ _ => rfl⟩

theorem happensAt_offer (a : Nat) (n : Notice) (s : State) : HappensAt a [n] [] s (offer n s) := by
  have hframe := offer_frame n s
  refine ⟨?_, fun b _ => station_congr (by rw [hframe])⟩
  change offer n s = withRecords _ _ (offer n s)
  rfl

theorem happensAt_discardContext (a : Nat) (s : State) : HappensAt a [] [] s (discardContext a s) := by
  unfold discardContext
  split
  · split
    · exact (happensAt_onStation a _ s).trans (happensAt_pool a _ _)
    · exact HappensAt.refl a s
  · exact HappensAt.refl a s

theorem happensAt_countStationResult (a : Nat) (r : Result) (s : State) :
    HappensAt a [] [] s (countStationResult a r s) := by
  cases r
  · exact happensAt_onStation a _ s
  · exact happensAt_onStation a _ s
  · exact HappensAt.refl a s
  · exact HappensAt.refl a s

theorem happensAt_setQueue {a : Nat} (ha : a ≠ 31) (q : List Nat) (s : State) :
    HappensAt a [] [] s (setQueue a q s) := by
  unfold setQueue
  rw [if_neg ha]
  exact (happensAt_onStation a _ s).trans (happensAt_pool a _ _)

/-! ### The end of one message (R97) -/

theorem setQueue_mpl (d : Nat) (q : List Nat) (s : State) :
    (setQueue d q s).mpl = { s.mpl with messages := markMessages d q.head? s.mpl.messages } := by
  unfold setQueue
  split <;> simp

/-- What the end of a message does to the pool (R97). -/
theorem endMessage_mpl {h : Nat} {m : Message} {s : State} (hm : message h s = some m) (r : Result) (w : Reason) :
    (endMessage h r w s).mpl = { s.mpl with
      free := s.mpl.free + 1, down := s.mpl.down - 1,
      messages := (markMessages m.dest ((queueOf m.dest s).erase h).head? s.mpl.messages).eraseP (·.handle == h) } := by
  simp [endMessage, hm, returnDown, setQueue_mpl]

/-- The record's own count of a result (R97). -/
def countResultIn (r : Result) (st : Station) : Station :=
  match r with
  | .delivered => countIn .messagesDelivered st
  | .failed => countIn .messagesFailed st
  | .discarded | .cancelled => st

theorem station_countStationResult (a : Nat) (r : Result) (s : State) :
    station a (countStationResult a r s) = (station a s).map (countResultIn r) := by
  cases r
  · exact station_onStation_same a _ s
  · exact station_onStation_same a _ s
  · exact Option.map_id'.symm
  · exact Option.map_id'.symm

theorem station_offer (a : Nat) (n : Notice) (s : State) : station a (offer n s) = station a s :=
  station_congr (by rw [offer_frame])

/-- What the end of a station's message does to its record (R85, R97). -/
theorem station_endMessage_same {h : Nat} {m : Message} {s : State} (hm : message h s = some m) (hd : m.dest ≠ 31)
    (r : Result) (w : Reason) : station m.dest (endMessage h r w s) = (station m.dest s).map fun st =>
      countResultIn r { st with
        queue := (queueOf m.dest s).erase h,
        inFlight := headRecord InFlight.handle freshInFlight ((queueOf m.dest s).erase h) st.inFlight } := by
  simp only [endMessage, hm, station_offer, station_countStationResult]
  have hq := station_setQueue_same ((queueOf m.dest s).erase h) s hd
  change (station m.dest (setQueue m.dest ((queueOf m.dest s).erase h) s)).map (countResultIn r) = _
  rw [hq, Option.map_map]
  rfl

theorem happensAt_endMessage {h : Nat} {m : Message} {s : State} (hm : message h s = some m) (hd : m.dest ≠ 31)
    (r : Result) (w : Reason) :
    HappensAt m.dest [.outcome h m.dest r w] [resultCounter r] s (endMessage h r w s) := by
  simp only [endMessage, hm]
  exact ((((happensAt_setQueue hd _ s).trans (happensAt_pool m.dest _ _)).trans
    (happensAt_countGlobal m.dest _ _)).trans (happensAt_countStationResult m.dest r _)).trans
    (happensAt_offer m.dest _ _)

/-! ### A station's own messages (R79, R84) -/

/-- A queue is that of an address: it holds each handle of the address's messages once, and handles are distinct. -/
structure OwnQueue (a : Nat) (queue : List Nat) (ms : List Message) : Prop where
  handles : (ms.map Message.handle).Nodup
  nodup : queue.Nodup
  mem_iff : ∀ h, h ∈ queue ↔ ∃ m ∈ ms, m.handle = h ∧ m.dest = a

theorem QueueInv.ownQueue {s : State} (hi : QueueInv s) {a : Nat} {st : Station} (hst : station a s = some st) :
    OwnQueue a st.queue s.mpl.messages := by
  obtain ⟨hnodup, -, hform, hqueues, -⟩ := hi
  have hq : queueOf a s = st.queue := queueOf_station hst
  obtain ⟨-, hqn, hqm⟩ := hqueues a
  rw [hq] at hqn hqm
  refine ⟨hnodup, hqn, fun h => ⟨hqm h, ?_⟩⟩
  rintro ⟨m, hm, rfl, rfl⟩
  obtain ⟨-, -, -, hmem, -⟩ := hform m hm
  rwa [hq] at hmem

theorem QueueInv.inFlight_handle {s : State} (hi : QueueInv s) {a : Nat} {st : Station} (hst : station a s = some st) :
    st.inFlight.map InFlight.handle = st.queue.head? := by
  obtain ⟨-, -, -, -, hrecords, -⟩ := hi
  exact (hrecords a st hst).1

/-- A handle of an own queue names a message of the address. -/
theorem OwnQueue.message {a h : Nat} {queue : List Nat} {s : State} (ho : OwnQueue a queue s.mpl.messages)
    (hh : h ∈ queue) : ∃ m, message h s = some m ∧ m.dest = a := by
  obtain ⟨m, hm, rfl, hd⟩ := (ho.mem_iff h).mp hh
  exact ⟨m, message_of_mem ho.handles hm, hd⟩

/-- The pool after `n` messages of an address have ended and the queue `kept` is left of its own (R80, R97). -/
def endedPool (a n : Nat) (kept : List Nat) (p : Mpl) : Mpl :=
  { p with free := p.free + n, down := p.down - n,
           messages := markedFor a kept (p.messages.filter fun m => m.dest ≠ a ∨ m.handle ∈ kept) }

theorem markedFor_handles (a : Nat) (queue : List Nat) (ms : List Message) :
    (markedFor a queue ms).map Message.handle = ms.map Message.handle := by
  simp only [markedFor, List.map_map]
  refine List.map_congr_left fun m _ => ?_
  simp only [Function.comp]
  split <;> rfl

/-- Marking keeps each message's handle and destination. -/
theorem exists_mem_markedFor {a b h : Nat} {queue : List Nat} {ms : List Message} :
    (∃ m ∈ markedFor a queue ms, m.handle = h ∧ m.dest = b) ↔ ∃ m ∈ ms, m.handle = h ∧ m.dest = b := by
  simp only [markedFor, List.mem_map, exists_exists_and_eq_and]
  refine exists_congr fun m => and_congr_right fun _ => ?_
  split <;> rfl

theorem markedFor_filter {p : Message → Bool} {a : Nat} {queue : List Nat} {ms : List Message}
    (hp : ∀ m x, p { m with state := x } = p m) :
    (markedFor a queue ms).filter p = markedFor a queue (ms.filter p) := by
  have hcomp : ∀ m : Message, p (if m.dest = a then
      { m with state := if queue.head? = some m.handle then .inFlight else .queued } else m) = p m := by
    intro m
    split
    · exact hp m _
    · rfl
  simp only [markedFor, List.filter_map]
  exact congrArg _ (List.filter_congr fun m _ => hcomp m)

theorem markedFor_markedFor (a : Nat) (queue kept : List Nat) (ms : List Message) :
    markedFor a kept (markedFor a queue ms) = markedFor a kept ms := by
  simp only [markedFor, List.map_map]
  refine List.map_congr_left fun m _ => ?_
  by_cases hd : m.dest = a <;> simp [hd]

/-- Handles are distinct, so the message that leaves is the only one with its handle. -/
theorem eraseP_handle {ms : List Message} (hn : (ms.map Message.handle).Nodup) (h : Nat) :
    ms.eraseP (·.handle == h) = ms.filter fun m => m.handle ≠ h := by
  induction ms with
  | nil => rfl
  | cons m ms ih =>
    rw [List.map_cons, List.nodup_cons] at hn
    obtain ⟨hm, hn⟩ := hn
    by_cases he : m.handle = h
    · have hrest : ∀ x ∈ ms, x.handle ≠ h := fun x hx e => hm (he ▸ e ▸ List.mem_map_of_mem hx)
      have hall : ms.filter (fun x => x.handle ≠ h) = ms := List.filter_eq_self.mpr (by simpa using hrest)
      rw [List.eraseP_cons_of_pos (by simpa using he), List.filter_cons_of_neg (by simpa using he), hall]
    · rw [List.eraseP_cons_of_neg (by simpa using he), List.filter_cons_of_pos (by simpa using he), ih hn]

/-- What is left of an own queue is an own queue of what is left in the pool. -/
theorem OwnQueue.ended {a n : Nat} {queue kept : List Nat} {p : Mpl} (ho : OwnQueue a queue p.messages)
    (hk : kept.Sublist queue) : OwnQueue a kept (endedPool a n kept p).messages := by
  refine ⟨?_, ho.nodup.sublist hk, fun h => ?_⟩
  · rw [endedPool, markedFor_handles]
    exact ho.handles.sublist (List.filter_sublist.map _)
  · simp only [endedPool, exists_mem_markedFor, List.mem_filter]
    refine ⟨fun hh => ?_, ?_⟩
    · obtain ⟨m, hm, he, hd⟩ := (ho.mem_iff h).mp (hk.subset hh)
      exact ⟨m, ⟨hm, by simp [he, hh]⟩, he, hd⟩
    · rintro ⟨m, ⟨-, hkept⟩, rfl, hd⟩
      simpa [hd] using hkept

/-- Another address's queue stays its own. -/
theorem OwnQueue.other {a b n : Nat} {queue kept : List Nat} {p : Mpl} (ho : OwnQueue b queue p.messages) (hb : b ≠ a) :
    OwnQueue b queue (endedPool a n kept p).messages := by
  refine ⟨?_, ho.nodup, fun h => ?_⟩
  · rw [endedPool, markedFor_handles]
    exact ho.handles.sublist (List.filter_sublist.map _)
  · rw [ho.mem_iff]
    simp only [endedPool, exists_mem_markedFor, List.mem_filter]
    refine exists_congr fun m => ⟨fun ⟨hm, he, hd⟩ => ⟨⟨hm, ?_⟩, he, hd⟩, fun ⟨⟨hm, _⟩, he, hd⟩ => ⟨hm, he, hd⟩⟩
    simp [hd, hb]

theorem endedPool_endedPool {a n k : Nat} {queue kept : List Nat} (hk : kept ⊆ queue) (p : Mpl) :
    endedPool a k kept (endedPool a n queue p) = endedPool a (n + k) kept p := by
  have hfilter : ((p.messages.filter fun m => m.dest ≠ a ∨ m.handle ∈ queue).filter fun m =>
      m.dest ≠ a ∨ m.handle ∈ kept) = p.messages.filter fun m => m.dest ≠ a ∨ m.handle ∈ kept := by
    rw [List.filter_filter]
    refine List.filter_congr fun m _ => ?_
    have hsub : m.handle ∈ kept → m.handle ∈ queue := fun h => hk h
    by_cases hd : m.dest = a <;> simp [hd]
    exact hsub
  simp only [endedPool]
  rw [markedFor_filter (fun _ _ => rfl), markedFor_markedFor, hfilter, Nat.add_assoc, Nat.sub_sub]

/-- With nothing queued, no message of the address is in the pool. -/
theorem endedPool_nil {a : Nat} {p : Mpl} (ho : OwnQueue a [] p.messages) : endedPool a 0 [] p = p := by
  have hnone : ∀ m ∈ p.messages, m.dest ≠ a := fun m hm hd =>
    List.not_mem_nil ((ho.mem_iff m.handle).mpr ⟨m, hm, rfl, hd⟩)
  have hfilter : (p.messages.filter fun m => m.dest ≠ a ∨ m.handle ∈ ([] : List Nat)) = p.messages :=
    List.filter_eq_self.mpr fun m hm => by simp [hnone m hm]
  have hmarked : markedFor a [] p.messages = p.messages := by
    simp only [markedFor]
    exact (List.map_congr_left fun m hm => if_neg (hnone m hm)).trans (List.map_id' _)
  simp only [endedPool, hfilter, hmarked]
  rfl

/-! ### The end of a station's queue (R43, R53, R97) -/

/-- A record with the queue that is left of its own, and a fresh in-flight record for its head (R85). -/
def withQueue (kept : List Nat) (st : Station) : Station :=
  { st with queue := kept, inFlight := kept.head?.map freshInFlight }

/-- A station, its own queue, and the in-flight record of its head (R84, R85). -/
structure Queued (a : Nat) (st : Station) (s : State) : Prop where
  record : station a s = some st
  own : OwnQueue a st.queue s.mpl.messages
  head : st.inFlight.map InFlight.handle = st.queue.head?

theorem QueueInv.queued {s : State} (hi : QueueInv s) {a : Nat} {st : Station} (hst : station a s = some st) :
    Queued a st s := ⟨hst, hi.ownQueue hst, hi.inFlight_handle hst⟩

theorem Queued.dest_ne {a : Nat} {st : Station} {s : State} (h : Queued a st s) : a ≠ 31 := by
  have := station_isSome_range h.record
  omega

/-- With nothing queued, nothing is in flight. -/
theorem Queued.withQueue_nil {a : Nat} {st : Station} {s : State} (h : Queued a st s) (hq : st.queue = []) :
    withQueue [] st = st := by
  have hfl := h.head
  rw [hq, List.head?_nil, Option.map_eq_none_iff] at hfl
  cases st
  simp_all [withQueue]

/-- The messages that ended at a station, in the order of their notices: what is left of its queue, its record and the
pool. -/
structure QueueEnds (a : Nat) (ns : List Notice) (cs : List GlobalCounter) (n : Nat) (kept : List Nat) (st : Station)
    (s t : State) : Prop where
  happens : HappensAt a ns cs s t
  record : station a t = some st
  pool : t.mpl = endedPool a n kept s.mpl

/-- The head of a station's queue ends (R85, R97). -/
theorem endMessage_head {a h : Nat} {rest : List Nat} {st : Station} {s : State} (hs : Queued a st s)
    (hq : st.queue = h :: rest) (r : Result) (w : Reason) :
    QueueEnds a [.outcome h a r w] [resultCounter r] 1 rest (countResultIn r (withQueue rest st)) s
      (endMessage h r w s) := by
  obtain ⟨m, hm, rfl⟩ := hs.own.message (h := h) (hq ▸ List.mem_cons_self)
  have hqueue : queueOf m.dest s = h :: rest := (queueOf_station hs.record).trans hq
  have hown := hs.own
  rw [hq] at hown
  obtain ⟨hnotin, -⟩ := List.nodup_cons.mp hown.nodup
  refine ⟨happensAt_endMessage hm hs.dest_ne r w, ?_, ?_⟩
  · have hfresh : headRecord InFlight.handle freshInFlight rest st.inFlight = rest.head?.map freshInFlight := by
      have hfl := hs.head
      rw [hq] at hfl
      obtain ⟨x, hx, hxh⟩ := Option.map_eq_some_iff.mp hfl
      rw [hx]
      cases rest with
      | nil => rfl
      | cons k ks =>
        have hne : x.handle ≠ k := fun e => hnotin (by rw [← hxh, e]; exact List.mem_cons_self)
        simp only [headRecord, if_neg hne]
        rfl
    rw [station_endMessage_same hm hs.dest_ne, hs.record, hqueue, List.erase_cons_head, Option.map_some, hfresh]
    rfl
  · have hfilter : (s.mpl.messages.filter fun x => x.handle ≠ h) =
        s.mpl.messages.filter fun x => x.dest ≠ m.dest ∨ x.handle ∈ rest := by
      refine List.filter_congr fun x hx => decide_eq_decide.mpr ⟨fun hne => ?_, fun hor e => ?_⟩
      · refine or_iff_not_imp_left.mpr fun hd => ?_
        have hmem := (hown.mem_iff x.handle).mpr ⟨x, hx, rfl, not_not.mp hd⟩
        exact (List.mem_cons.mp hmem).resolve_left hne
      · obtain ⟨y, hy, hyh, hyd⟩ := (hown.mem_iff h).mp List.mem_cons_self
        have hxy : x = y := List.inj_on_of_nodup_map hown.handles hx hy (e.trans hyh.symm)
        exact hor.elim (fun hd => hd (hxy ▸ hyd)) fun hr => hnotin (e ▸ hr)
    have hmarked : markMessages m.dest rest.head? s.mpl.messages = markedFor m.dest rest s.mpl.messages := rfl
    rw [endMessage_mpl hm, hqueue, List.erase_cons_head, hmarked,
      eraseP_handle (by rw [markedFor_handles]; exact hown.handles), markedFor_filter (fun _ _ => rfl), hfilter]
    rfl

theorem QueueEnds.queued {a n : Nat} {ns : List Notice} {cs : List GlobalCounter} {kept : List Nat} {st st' : Station}
    {s t : State} (h : QueueEnds a ns cs n kept st' s t) (hs : Queued a st s) (hk : kept.Sublist st.queue)
    (hq : st'.queue = kept) (hf : st'.inFlight = kept.head?.map freshInFlight) : Queued a st' t := by
  refine ⟨h.record, ?_, ?_⟩
  · rw [h.pool, hq]
    exact hs.own.ended hk
  · rw [hf, hq, Option.map_map]
    exact Option.map_id'

theorem endMessages_cons (h : Nat) (hs : List Nat) (r : Result) (w : Reason) (s : State) :
    endMessages (h :: hs) r w s = endMessages hs r w (endMessage h r w s) := rfl

/-- The whole queue of a station is discarded (R43, R53). -/
theorem endMessages_discarded {a : Nat} (w : Reason) {queue : List Nat} {st : Station} {s : State} (hs : Queued a st s)
    (hq : st.queue = queue) :
    QueueEnds a (queue.map fun h => .outcome h a .discarded w) (queue.map fun _ => .discarded) queue.length []
      (withQueue [] st) s (endMessages queue .discarded w s) := by
  induction queue generalizing st s with
  | nil =>
    refine ⟨HappensAt.refl a s, ?_, ?_⟩
    · rw [hs.withQueue_nil hq]
      exact hs.record
    · have hown := hs.own
      rw [hq] at hown
      exact (endedPool_nil hown).symm
  | cons h rest ih =>
    have hhead := endMessage_head hs hq .discarded w
    have hnext := hhead.queued hs (hq ▸ List.sublist_cons_self h rest) rfl rfl
    obtain ⟨hhappens, hrecord, hpool⟩ := ih hnext rfl
    rw [endMessages_cons]
    refine ⟨hhead.happens.trans hhappens, hrecord, ?_⟩
    rw [hpool, hhead.pool, endedPool_endedPool (List.nil_subset _), Nat.add_comm 1]
    rfl

/-- The record after the end of its queue: a message FAILED where there was a head (R97). -/
def queueEndRecord (kept : List Nat) (st : Station) : Station :=
  if st.queue = [] then withQueue kept st else countIn .messagesFailed (withQueue kept st)

/-- The end of a station's queue: the head FAILED, and those behind it DISCARDED where they end too (R43, R53, R97). -/
theorem endQueue_ends {a : Nat} (w : Reason) (behind : Bool) {st : Station} {s : State} (hs : Queued a st s) :
    let kept := if behind then [] else st.queue.tail
    QueueEnds a (queueEndNotices a w behind st.queue) (queueEndCounts behind st.queue) (st.queue.length - kept.length)
      kept (queueEndRecord kept st) s (endQueue st.queue w behind s) := by
  intro kept
  cases hq : st.queue with
  | nil =>
    have hkept : kept = [] := by simp [kept, hq]
    rw [hkept, queueEndRecord, if_pos hq, hs.withQueue_nil hq]
    have hown := hs.own
    rw [hq] at hown
    exact ⟨HappensAt.refl a s, hs.record, (endedPool_nil hown).symm⟩
  | cons h rest =>
    have hhead := endMessage_head hs hq .failed w
    rw [queueEndRecord, if_neg (by simp [hq])]
    cases behind with
    | false =>
      have hkept : kept = rest := by simp [kept, hq]
      have hlen : (h :: rest).length - rest.length = 1 := by simp
      rw [hkept, hlen]
      exact hhead
    | true =>
      have hkept : kept = [] := by simp [kept]
      have hnext := hhead.queued hs (hq ▸ List.sublist_cons_self h rest) rfl rfl
      obtain ⟨hhappens, hrecord, hpool⟩ := endMessages_discarded w hnext rfl
      rw [hkept]
      refine ⟨hhead.happens.trans hhappens, hrecord, ?_⟩
      change (endMessages rest .discarded w (endMessage h .failed w s)).mpl = _
      have hlen : (h :: rest).length - ([] : List Nat).length = 1 + rest.length := by simp [Nat.add_comm]
      rw [hlen, ← endedPool_endedPool (List.nil_subset rest), ← hhead.pool]
      exact hpool

/-! ### The context of a station (R122) -/

theorem discardContext_some {a : Nat} {st : Station} {s : State} (h : station a s = some st) : discardContext a s =
    if st.context.isSome then returnUp (setStation a (some { st with context := none }) s) else s := by
  simp only [discardContext, h, onStation_some h]

/-- What discarding a context does to the pool (R122). -/
theorem discardContext_mpl {a : Nat} {st : Station} {s : State} (h : station a s = some st) :
    (discardContext a s).mpl = { s.mpl with
      free := s.mpl.free + if st.context.isSome then 1 else 0, up := s.mpl.up - if st.context.isSome then 1 else 0 } := by
  rw [discardContext_some h]
  split <;> simp [returnUp]

theorem station_discardContext {a : Nat} {st : Station} {s : State} (h : station a s = some st) :
    station a (discardContext a s) = some { st with context := none } := by
  rw [discardContext_some h]
  split
  · exact station_setStation_same (station_isSome_range h)
  · rename_i hc
    have hnone : st.context = none := Option.not_isSome_iff_eq_none.mp hc
    rw [h, ← hnone]

/-! ### RETIRE (R43) -/

theorem exec_retire {tag a : Byte} {rest : List Request} {s : State} (h : CanTake ⟨0x0B, tag, [a]⟩ rest s) :
    exec (.retire tag [a]) s = .next (arbitrate (takeRetire tag [a] { s with rex.inbox := rest })) :=
  request_suits (takeRetire tag [a]) h rfl

/-- A retired address: its messages ended, its context discarded, its record gone (R43, R122). -/
def retired (a : Nat) (st : Station) (s : State) : State :=
  setStation a none (discardContext a (endQueue st.queue .retired true s))

theorem takeRetire_record {tag a : Byte} {st : Station} {s : State} (h : station a.toNat s = some st) :
    takeRetire tag [a] s = reply kindRetire tag .ok [oneByte st.queue.length] (retired a.toNat st s) := by
  simp only [takeRetire, numAt, byteAt, List.getD_cons_zero, stationAddress_of_station h, h, if_true]
  rfl

theorem retired_rex (a : Nat) (st : Station) (s : State) : (retired a st s).rex = s.rex := by
  have hcontrol : control (retired a st s) = control s := by simp [retired]
  exact congrArg Control.rex hcontrol

theorem happensAt_retired {a : Nat} {st : Station} {s : State} (hs : Queued a st s) :
    HappensAt a (queueEndNotices a .retired true st.queue) (queueEndCounts true st.queue) s (retired a st s) := by
  have h := ((endQueue_ends .retired true hs).happens.trans (happensAt_discardContext a _)).trans
    (happensAt_setStation a none _)
  simpa only [List.append_nil, retired] using h

/-- Where every message of an address has ended, none is left to mark. -/
theorem markedFor_nil_filter (a : Nat) (ms : List Message) :
    markedFor a [] (ms.filter fun m => m.dest ≠ a ∨ m.handle ∈ ([] : List Nat)) = ms.filter fun m => m.dest ≠ a := by
  simp only [List.not_mem_nil, or_false]
  refine (List.map_congr_left fun m hm => if_neg ?_).trans (List.map_id' _)
  exact of_decide_eq_true (List.mem_filter.mp hm).2

theorem retired_mpl {a : Nat} {st : Station} {s : State} (hs : Queued a st s) : (retired a st s).mpl = { s.mpl with
    free := s.mpl.free + st.queue.length + (if st.context.isSome then 1 else 0),
    down := s.mpl.down - st.queue.length, up := s.mpl.up - (if st.context.isSome then 1 else 0),
    messages := s.mpl.messages.filter fun m => m.dest ≠ a } := by
  obtain ⟨-, hrecord, hpool⟩ := endQueue_ends .retired true hs
  have hcontext : (queueEndRecord [] st).context = st.context := by
    unfold queueEndRecord
    split <;> rfl
  rw [retired, setStation_mpl, discardContext_mpl hrecord, hpool]
  simp only [if_true, hcontext, endedPool, markedFor_nil_filter, List.length_nil, Nat.sub_zero]

/-- Settles O23: the refusals, and the end of the queue, the context and the record. -/
theorem retireEndsTheQueueAndTheRecord : Obligations.RetireEndsTheQueueAndTheRecord := by
  refine ⟨fun tag a rest s h => ?_, fun tag a rest st s h hi hst => ?_⟩
  · rw [exec_retire h]
    refine ⟨fun ha => ?_, fun hlo hhi hst => ?_⟩
    · simp only [takeRetire, numAt, byteAt, List.getD_cons_zero, not_stationAddress_byte ha]
      rfl
    · simp only [takeRetire, numAt, byteAt, List.getD_cons_zero, (stationAddress_byte a).mpr ⟨hlo, hhi⟩, station_inbox,
        hst]
      rfl
  · intro notices counted held
    let s0 : State := { s with rex.inbox := rest }
    obtain ⟨hrecord, hown, hhead⟩ := hi.queued hst
    have hs : Queued a.toNat st s0 := ⟨hrecord, hown, hhead⟩
    have hhappens := happensAt_retired hs
    have heq := hhappens.eq
    refine ⟨{ retired a.toNat st s0 with rex := s.rex }, ?_, ?_, ?_, fun b hb => hhappens.others b hb, retired_mpl hs⟩
    · rw [exec_retire h, takeRetire_record (s := s0) hst]
      have hrex := retired_rex a.toNat st s0
      have hretired : retired a.toNat st s0 =
          { retired a.toNat st s0 with rex := { s.rex with inbox := rest } } :=
        congrArg (fun x => { retired a.toNat st s0 with rex := x }) hrex
      rw [hretired]
      rfl
    · have hcounters : (offerAll notices (countAll (queueEndCounts true st.queue) s0)).counters =
          (offerAll notices counted).counters := by
        rw [countAll_inbox, offerAll_inbox]
      have hntq : (offerAll notices s0).ntq = (offerAll notices s).ntq := by rw [offerAll_inbox]
      rw [hcounters, hntq] at heq
      exact congrArg (fun t : State => { t with rex := s.rex }) heq
    · exact station_setStation_same (station_isSome_range hst)

end Sys2Proof.Machine
end

section
/-! The presence evaluation in the terms of the claims: what one station gains, misses and loses (R47 to R53, R85, R97). -/

namespace Sys2Proof.Machine

-- One proof after another, not in parallel: the whole text compiles under a bound on memory.
set_option Elab.async false

/-! ### The stations evaluated (R48) -/

theorem ownsUp_iff (b : Bank) (a : Nat) : ownsUp b a = true ↔ HasUp b a := by
  simp only [ownsUp, upIndices, indicesOf, Bool.not_eq_true', ← Bool.not_eq_true, List.isEmpty_iff,
    List.filter_eq_nil_iff, List.mem_range, entry_test_iff]
  push Not
  rfl

theorem evaluate_unenrolled {a : Nat} {s : State} (b : Bank) (h : station a s = none) : evaluate b a s = s := by
  simp only [evaluate, h]

theorem evaluate_unscheduled {b : Bank} {a : Nat} {st : Station} {s : State} (h : station a s = some st)
    (hup : ¬ HasUp b a) : evaluate b a s = s := by
  simp only [evaluate, h, mt (ownsUp_iff b a).mp hup]
  rfl

theorem evaluate_heard {b : Bank} {a : Nat} {st : Station} {s : State} (h : station a s = some st) (hup : HasUp b a)
    (hh : st.heard = true) : evaluate b a s = evaluateHeard a st s := by
  simp only [evaluate, h, (ownsUp_iff b a).mpr hup, hh, if_true]

theorem evaluate_missed {b : Bank} {a : Nat} {st : Station} {s : State} (h : station a s = some st) (hup : HasUp b a)
    (hh : st.heard = false) : evaluate b a s = evaluateMissed a st s := by
  simp only [evaluate, h, (ownsUp_iff b a).mpr hup, hh, if_true]
  rfl

/-! ### A heard station (R49, R52) -/

theorem onStation_setStation {a : Nat} (ha : 1 ≤ a ∧ a ≤ 30) (f : Station → Station) (st : Station) (s : State) :
    onStation a f (setStation a (some st) s) = setStation a (some (f st)) s := by
  rw [onStation_some (station_setStation_same ha), setStation_setStation]

theorem reportsGain_iff (m : NoticeMode) : reportsGain m = true ↔ m = .onGain ∨ m = .both := by
  cases m <;> simp [reportsGain]

theorem reportsLoss_iff (m : NoticeMode) : reportsLoss m = true ↔ m = .onLoss ∨ m = .both := by
  cases m <;> simp [reportsLoss]

section Heard
variable {a : Nat} {st : Station} {s : State}

theorem evaluateHeard_absent (h : station a s = some st) (hp : st.presence = .absent) : evaluateHeard a st s =
    setStation a (some (resetSequences { countIn .cyclesHeard { st with miss := 0 } with
      good := 1, presence := .acquiring })) s := by
  simp only [evaluateHeard, hp, onStation_some h, onStation_setStation (station_isSome_range h)]

theorem evaluateHeard_acquiring (h : station a s = some st) (hp : st.presence = .acquiring)
    (hg : min (st.good + 1) s.rex.config.lockIn < s.rex.config.lockIn) : evaluateHeard a st s =
    setStation a (some { countIn .cyclesHeard { st with miss := 0 } with
      good := min (st.good + 1) s.rex.config.lockIn }) s := by
  simp only [evaluateHeard, hp, onStation_some h, onStation_setStation (station_isSome_range h), Nat.ne_of_lt hg, if_false]

theorem evaluateHeard_gain (h : station a s = some st) (hp : st.presence = .acquiring)
    (hg : min (st.good + 1) s.rex.config.lockIn = s.rex.config.lockIn) :
    let t := countGlobal .stationsGained (setStation a (some (countIn .gains
      { countIn .cyclesHeard { st with miss := 0 } with
        good := min (st.good + 1) s.rex.config.lockIn, presence := .present })) s)
    evaluateHeard a st s =
      if st.mode = .onGain ∨ st.mode = .both then offer (.presence a .acquiring .present) t else t := by
  simp only [evaluateHeard, hp, onStation_some h, onStation_setStation (station_isSome_range h), hg, if_true,
    reportsGain_iff]

theorem evaluateHeard_present (h : station a s = some st) (hp : st.presence = .present) : evaluateHeard a st s =
    setStation a (some { countIn .cyclesHeard { st with miss := 0 } with
      good := min (st.good + 1) s.rex.config.lockIn }) s := by
  simp only [evaluateHeard, hp, onStation_some h, onStation_setStation (station_isSome_range h)]

end Heard

/-! ### A station that was not heard (R50) -/

/-- The record of a station that was not heard, with its new miss count (R50). -/
def missedRecord (miss : Nat) (st : Station) : Station := countIn .cyclesMissed { st with good := 0, miss := miss }

section Missed
variable {a : Nat} {st : Station} {s : State}

theorem evaluateMissed_counts (h : station a s = some st)
    (hm : min (st.miss + 1) s.rex.config.lockOut < s.rex.config.lockOut ∨ st.presence = .absent) :
    evaluateMissed a st s = setStation a (some (missedRecord (min (st.miss + 1) s.rex.config.lockOut) st)) s := by
  simp only [evaluateMissed, missedRecord, onStation_some h]
  rcases hm with hm | hp
  · exact if_neg (Nat.ne_of_lt hm)
  · simp only [hp, ite_self]

theorem evaluateMissed_acquiring (h : station a s = some st) (hp : st.presence = .acquiring)
    (hm : min (st.miss + 1) s.rex.config.lockOut = s.rex.config.lockOut) : evaluateMissed a st s =
    setStation a (some (countIn .failedAcquisitions
      { missedRecord (min (st.miss + 1) s.rex.config.lockOut) st with presence := .absent })) s := by
  simp only [evaluateMissed, hp, onStation_some h, onStation_setStation (station_isSome_range h), hm, if_true]
  rfl

theorem evaluateMissed_present (h : station a s = some st) (hp : st.presence = .present)
    (hm : min (st.miss + 1) s.rex.config.lockOut = s.rex.config.lockOut) : evaluateMissed a st s =
    lose a st (setStation a (some { missedRecord s.rex.config.lockOut st with presence := .absent }) s) := by
  simp only [evaluateMissed, hp, onStation_some h, onStation_setStation (station_isSome_range h), hm, if_true]
  rfl

end Missed

/-- Settles O25: the evaluation of every station, and of one by its record, its slots, its heard flag and its presence. -/
theorem presenceIsEvaluatedPerStation : Obligations.PresenceIsEvaluatedPerStation := by
  refine ⟨fun s => rfl, fun b a s h => evaluate_unenrolled b h, fun b a st s h hup => evaluate_unscheduled h hup,
    fun b a st s h hup hh => ?_, fun b a st s h hup hh => ?_⟩
  · intro good counted
    rw [evaluate_heard h hup hh]
    exact ⟨evaluateHeard_absent h, evaluateHeard_acquiring h, evaluateHeard_gain h, evaluateHeard_present h⟩
  · intro miss counted
    rw [evaluate_missed h hup hh]
    exact ⟨evaluateMissed_counts h, fun hm hp => evaluateMissed_acquiring h hp hm⟩

/-! ### A loss (R50, R52, R53) -/

/-- The queue that a lost station keeps: the queued messages where they are held (R53). -/
def keptQueue (st : Station) : List Nat := if st.hold then st.queue.tail else []

/-- The notices of a loss: the presence change where it is reported, and the ends of the messages (R52, R53). -/
def lossNotices (a : Nat) (st : Station) : List Notice :=
  (if st.mode = .onLoss ∨ st.mode = .both then [.presence a .present .absent] else []) ++
    queueEndNotices a .stationLost (!st.hold) st.queue

/-- The counts of a loss (R52, R97). -/
def lossCounts (st : Station) : List GlobalCounter := .stationsLost :: queueEndCounts (!st.hold) st.queue

theorem keptQueue_sublist (st : Station) : (keptQueue st).Sublist st.queue := by
  unfold keptQueue
  split
  · exact st.queue.tail_sublist
  · exact List.nil_sublist _

theorem keptQueue_eq (st : Station) : (if !st.hold then [] else st.queue.tail) = keptQueue st := by
  unfold keptQueue
  cases st.hold <;> rfl

/-- The state of a loss once it has been counted and reported, before the messages end. -/
def lossReported (a : Nat) (st : Station) (s : State) : State :=
  let t := countGlobal .stationsLost (countStation a .losses s)
  if reportsLoss st.mode then offer (.presence a .present .absent) t else t

theorem lossReported_mpl (a : Nat) (st : Station) (s : State) : (lossReported a st s).mpl = s.mpl := by
  unfold lossReported
  split <;> simp

theorem lose_eq (a : Nat) (st : Station) (s : State) :
    lose a st s = discardContext a (endQueue st.queue .stationLost (!st.hold) (lossReported a st s)) := rfl

theorem happensAt_lossReported (a : Nat) (st : Station) (s : State) :
    HappensAt a (if st.mode = .onLoss ∨ st.mode = .both then [.presence a .present .absent] else []) [.stationsLost] s
      (lossReported a st s) := by
  have hcounted := (happensAt_onStation a (countIn .losses) s).trans (happensAt_countGlobal a .stationsLost _)
  simp only [lossReported, reportsLoss_iff]
  split
  · exact hcounted.trans (happensAt_offer a _ _)
  · exact hcounted

section Loss
variable {a : Nat} {st r : Station} {s : State}

/-- The loss of a station is judged by its record `st` of the evaluation's beginning; `r` is the record it has now. -/
theorem queued_lossReported (hs : Queued a r s) : Queued a (countIn .losses r) (lossReported a st s) := by
  have hcounted : station a (countStation a .losses s) = some (countIn .losses r) := by
    rw [countStation, station_onStation_same, hs.record]
    rfl
  refine ⟨?_, lossReported_mpl a st s ▸ hs.own, hs.head⟩
  unfold lossReported
  split
  · rw [station_offer]
    exact hcounted
  · exact hcounted

theorem endQueue_lossReported (hs : Queued a r s) (hq : r.queue = st.queue) :
    QueueEnds a (queueEndNotices a .stationLost (!st.hold) st.queue) (queueEndCounts (!st.hold) st.queue)
      (st.queue.length - (keptQueue st).length) (keptQueue st) (queueEndRecord (keptQueue st) (countIn .losses r))
      (lossReported a st s) (endQueue st.queue .stationLost (!st.hold) (lossReported a st s)) := by
  have h := endQueue_ends .stationLost (!st.hold) (queued_lossReported (st := st) hs)
  simp only [countIn_queue, hq, keptQueue_eq] at h
  exact h

theorem happensAt_lose (hs : Queued a r s) (hq : r.queue = st.queue) :
    HappensAt a (lossNotices a st) (lossCounts st) s (lose a st s) := by
  have h := ((happensAt_lossReported a st s).trans (endQueue_lossReported hs hq).happens).trans
    (happensAt_discardContext a _)
  simp only [List.append_nil] at h
  exact h

theorem queueEndRecord_context (kept : List Nat) (st : Station) : (queueEndRecord kept st).context = st.context := by
  unfold queueEndRecord
  split <;> rfl

theorem queueEndRecord_queue (kept : List Nat) (st : Station) : (queueEndRecord kept st).queue = kept := by
  unfold queueEndRecord
  split <;> rfl

theorem queueEndRecord_inFlight (kept : List Nat) (st : Station) :
    (queueEndRecord kept st).inFlight = kept.head?.map freshInFlight := by
  unfold queueEndRecord
  split <;> rfl

theorem station_lose (hs : Queued a r s) (hq : r.queue = st.queue) :
    station a (lose a st s) = some { queueEndRecord (keptQueue st) (countIn .losses r) with context := none } :=
  station_discardContext (endQueue_lossReported hs hq).record

theorem lose_mpl (hs : Queued a r s) (hq : r.queue = st.queue) (hc : r.context = st.context) :
    (lose a st s).mpl = { endedPool a (st.queue.length - (keptQueue st).length) (keptQueue st) s.mpl with
      free := s.mpl.free + (st.queue.length - (keptQueue st).length) + (if st.context.isSome then 1 else 0),
      up := s.mpl.up - (if st.context.isSome then 1 else 0) } := by
  have hends := endQueue_lossReported (st := st) hs hq
  rw [lose_eq, discardContext_mpl hends.record, hends.pool, lossReported_mpl, queueEndRecord_context, countIn_context, hc]
  rfl

theorem lose_messages (hs : Queued a r s) (hq : r.queue = st.queue) : (lose a st s).mpl.messages =
    (endedPool a (st.queue.length - (keptQueue st).length) (keptQueue st) s.mpl).messages := by
  have hends := endQueue_lossReported (st := st) hs hq
  rw [lose_eq, discardContext_mpl hends.record, hends.pool, lossReported_mpl]

end Loss

theorem Queued.setStation {a : Nat} {st r : Station} {s : State} (hs : Queued a st s) (hq : r.queue = st.queue)
    (hf : r.inFlight = st.inFlight) : Queued a r (setStation a (some r) s) := by
  refine ⟨station_setStation_same (station_isSome_range hs.record), ?_, ?_⟩
  · rw [setStation_mpl, hq]
    exact hs.own
  · rw [hq, hf]
    exact hs.head

/-- Settles O26: a loss is counted and reported, its queue ends, and its context is discarded. -/
theorem aLossEndsWhatTheStationHeld : Obligations.ALossEndsWhatTheStationHeld := by
  intro b a st s hi hst hup hheard hpresent hmiss queue notices counted ended held lost v
  let r : Station := { missedRecord s.rex.config.lockOut st with presence := .absent }
  have hs : Queued a r (setStation a (some r) s) := (hi.queued hst).setStation rfl rfl
  have hv : v = lose a st (setStation a (some r) s) :=
    (evaluate_missed hst hup hheard).trans (evaluateMissed_present hst hpresent hmiss)
  have hhappens : HappensAt a notices (lossCounts st) s v := by
    have h := (happensAt_setStation a (some r) s).trans (happensAt_lose (st := st) hs rfl)
    rw [hv]
    exact h
  refine ⟨hhappens.eq, ?_, hhappens.others, ?_⟩
  · rw [hv, station_lose (st := st) hs rfl]
    unfold queueEndRecord
    change some ({ (if st.queue = [] then _ else _ : Station) with context := none }) = _
    split <;> rfl
  · rw [hv, lose_mpl (st := st) hs rfl rfl, setStation_mpl]
    rfl

end Sys2Proof.Machine
end

section
/-! A valid JOIN in the terms of the claims: the refusals with their stranger entry, and what an accepted one does to its
record (R55, R56, R66 to R71). -/

namespace Sys2Proof.Machine

-- One proof after another, not in parallel: the whole text compiles under a bound on memory.
set_option Elab.async false

/-! ### A reported part (R64, R66, R142) -/

theorem settle_eq_partReported (slot : RxSlot) (r : Reception) (s : State) : settle slot r s = partReported slot r s := by
  simp only [settle, partReported]
  split <;> rfl

/-- A report that settles an ADMIT slot's part hands its class to ADM (R64, R142). -/
theorem exec_admitSlotReport_settled {edges : List Edge} {upTo : Nat} {part : RxPhase} {r : Reception} {s : State}
    (hh : held s = false) (hl : s.lif.line = .receive .admission part) (ho : partOpen part = true)
    (hr : hear edges upTo part = .settled r) : exec (.admitSlotReport edges upTo) s =
      .next (arbitrate (resolveAdmit r.cls (partReported .admission r s))) := by
  have hreport : takeReport .admission edges upTo resolveAdmit s =
      some (resolveAdmit r.cls (settle .admission r s)) := by
    simp only [takeReport, hl, ho, hr, and_self, if_true]
  rw [← settle_eq_partReported, ← perform_some hh, ← hreport]
  rfl

theorem stationAddress_segment {x : BitVec 5} (h0 : x ≠ 0) (h31 : x ≠ 31) : stationAddress x.toNat = true := by
  have hlt := x.isLt
  have h0' : x.toNat ≠ 0 := fun e => h0 (BitVec.eq_of_toNat_eq e)
  have h31' : x.toNat ≠ 31 := fun e => h31 (BitVec.eq_of_toNat_eq e)
  exact decide_eq_true (by omega)

theorem resolveAdmit_validJoin {seg : Segment} {b0 b1 : Byte} {s : State} (hk : seg.kind = .join) (h0 : seg.address ≠ 0)
    (h31 : seg.address ≠ 31) (hp : seg.payload = [b0, b1]) (he : seg.echo = s.cye.cycle) :
    resolveAdmit (.good seg) s = resolveJoin seg.address.toNat (b0 &&& 0x0F) s := by
  have hclass : joinClass seg = b0 &&& 0x0F := by
    rw [joinClass, hp]
    rfl
  have hvalid : validJoin seg s = true := by
    simp only [validJoin, hk, stationAddress_segment h0 h31, hp, he, List.length_cons, List.length_nil, decide_true,
      Bool.and_self]
  simp only [resolveAdmit, hvalid, hclass, if_true]

/-! ### The stranger set (R55, R56) -/

/-- In an ascending set a new address goes between the lower and the higher ones (R56). -/
theorem insertStranger_eq (x : Stranger) {xs : List Stranger} (hs : (xs.map Stranger.address).Pairwise (· < ·))
    (hn : ∀ y ∈ xs, y.address ≠ x.address) : insertStranger x xs =
      xs.filter (fun y => y.address < x.address) ++ x :: xs.filter fun y => x.address < y.address := by
  induction xs with
  | nil => rfl
  | cons y ys ih =>
    rw [List.map_cons, List.pairwise_cons] at hs
    obtain ⟨hy, hs⟩ := hs
    have hlater : ∀ z ∈ ys, y.address < z.address := fun z hz => hy _ (List.mem_map_of_mem hz)
    by_cases hlt : x.address < y.address
    · have hnone : ys.filter (fun z => z.address < x.address) = [] :=
        List.filter_eq_nil_iff.mpr fun z hz => by have := hlater z hz; simp; omega
      have hall : ys.filter (fun z => x.address < z.address) = ys :=
        List.filter_eq_self.mpr fun z hz => by have := hlater z hz; simp; omega
      rw [insertStranger, if_pos hlt, List.filter_cons_of_neg (by simp; omega), List.filter_cons_of_pos (by simpa using hlt),
        hnone, hall]
      rfl
    · have hgt : y.address < x.address := Nat.lt_of_le_of_ne (Nat.not_lt.mp hlt) (hn y List.mem_cons_self)
      rw [insertStranger, if_neg hlt, ih hs fun z hz => hn z (List.mem_cons_of_mem y hz),
        List.filter_cons_of_pos (by simpa using hgt), List.filter_cons_of_neg (by simpa using hlt)]
      rfl

/-- A refused address in the terms of the claims: a member stays as it is, a new entry is counted and reported (R55). -/
theorem addStranger_eq (a : Nat) (cls : Byte) (why : StrangerReason) {s : State}
    (hs : (s.stt.strangers.map Stranger.address).Pairwise (· < ·)) : addStranger a cls why s =
      if ∃ x ∈ s.stt.strangers, x.address = a then s
      else offer (.stranger a cls why) (countGlobal .strangerInsertions
        { s with stt.strangers := s.stt.strangers.filter (fun x => x.address < a) ++
          { address := a, cls := cls, reason := why } :: s.stt.strangers.filter fun x => a < x.address }) := by
  have hmem : (s.stt.strangers.any fun x => x.address == a) = true ↔ ∃ x ∈ s.stt.strangers, x.address = a := by simp
  unfold addStranger
  by_cases hm : ∃ x ∈ s.stt.strangers, x.address = a
  · rw [if_pos (hmem.mpr hm), if_pos hm]
  · rw [if_neg (mt hmem.mp hm), if_neg hm, insertStranger_eq _ hs fun y hy e => hm ⟨y, hy, e⟩]

theorem station_addStranger (a b : Nat) (cls : Byte) (why : StrangerReason) (s : State) :
    station b (addStranger a cls why s) = station b s := by
  unfold addStranger
  split
  · rfl
  · exact station_offer b _ _

/-! ### A JOIN against its record (R67 to R71) -/

theorem classMatches_iff (expected : StationClass) (reported : Byte) :
    classMatches expected reported = true ↔ expected = .any ∨ expected = .is reported := by
  cases expected <;> simp [classMatches]

section Join
variable {a : Nat} {cls : Byte} {st : Station} {s : State}

theorem resolveJoin_unknown (h : station a s = none) : resolveJoin a cls s =
    countGlobal .joinsRefusedUnknown (addStranger a cls .unknown (setAdmission .refusedUnknown a s)) := by
  simp only [resolveJoin, h]

theorem resolveJoin_class (h : station a s = some st) (hany : st.cls ≠ .any) (his : st.cls ≠ .is cls) :
    resolveJoin a cls s = setStation a (some (countIn .joinsRefusedForClass st))
      (addStranger a cls .cls (setAdmission .refusedClass a s)) := by
  have hno : ¬ classMatches st.cls cls = true := by
    rw [classMatches_iff]
    exact not_or.mpr ⟨hany, his⟩
  simp only [resolveJoin, h, if_neg hno, countStation]
  exact onStation_some ((station_addStranger a a cls .cls _).trans h)

theorem resolveJoin_accepts (h : station a s = some st) (hc : st.cls = .any ∨ st.cls = .is cls) :
    resolveJoin a cls s = acceptJoin a cls st s := by
  simp only [resolveJoin, h, (classMatches_iff st.cls cls).mpr hc, if_true]

theorem acceptJoin_absent (h : station a s = some st) (hp : st.presence = .absent) : acceptJoin a cls st s =
    offer (.joinHeard a cls) (setStation a (some (countIn .joinsAccepted (joined st))) (setAdmission .accepted a s)) := by
  have hset : station a (setAdmission .accepted a s) = some st := h
  simp only [acceptJoin, hp, onStation_some hset]

theorem acceptJoin_acquiring (h : station a s = some st) (hp : st.presence = .acquiring) : acceptJoin a cls st s =
    setStation a (some (countIn .joinsAccepted (joined st))) (setAdmission .accepted a s) := by
  have hset : station a (setAdmission .accepted a s) = some st := h
  simp only [acceptJoin, hp, onStation_some hset]

theorem returnUp_setStation (a : Nat) (r : Option Station) (s : State) :
    returnUp (setStation a r s) = setStation a r (returnUp s) := by
  unfold setStation
  split <;> rfl

/-- A PRESENT station that joins again is restarted: its message rewound, its context discarded (R71). -/
theorem acceptJoin_present (h : station a s = some st) (hp : st.presence = .present) : acceptJoin a cls st s =
    offer (.restarted a) (setStation a (some (countIn .restarts { countIn .joinsAccepted (joined st) with
      context := none, inFlight := st.inFlight.map fun r => freshInFlight r.handle }))
      (if st.context.isSome then returnUp (setAdmission .accepted a s) else setAdmission .accepted a s)) := by
  have hset : station a (setAdmission .accepted a s) = some st := h
  have hrange := station_isSome_range h
  let r := countIn .restarts (countIn .joinsAccepted (rewindStation (joined st)))
  have hr : station a (setStation a (some r) (setAdmission .accepted a s)) = some r := station_setStation_same hrange
  have hcontext : r.context = st.context := rfl
  simp only [acceptJoin, hp, onStation_some hset]
  change offer _ (discardContext a (setStation a (some r) _)) = _
  rw [discardContext_some hr, hcontext]
  split
  · rw [setStation_setStation, returnUp_setStation]
    rfl
  · rename_i hc
    have hnone : r.context = none := Option.not_isSome_iff_eq_none.mp hc
    have hsame : { r with context := none } = r := by rw [← hnone]
    rw [← hsame]
    rfl

end Join

/-- Settles O28: the refusals with the stranger set, and the acceptance by the presence it finds. -/
theorem aValidJoinIsResolved : Obligations.AValidJoinIsResolved := by
  intro edges upTo part r seg b0 b1 s hh hl ho hr hgood hkind h0 h31 hpayload hecho hstrangers a cls result refused joined
  obtain ⟨hsorted, -⟩ := hstrangers
  rw [exec_admitSlotReport_settled hh hl ho hr, hgood,
    resolveAdmit_validJoin (s := partReported .admission r s) hkind h0 h31 hpayload hecho]
  have hrefused : ∀ why x, addStranger a cls why (setAdmission x a (partReported .admission r s)) =
      refused why (result x) := fun why x =>
    addStranger_eq a cls why (s := setAdmission x a (partReported .admission r s)) hsorted
  have hrecord : station a (partReported .admission r s) = station a s := rfl
  refine ⟨fun hst => ?_, fun st hst hany his => ?_, fun st hst hc => ?_⟩
  · rw [resolveJoin_unknown (hrecord.trans hst), hrefused]
  · rw [resolveJoin_class (hrecord.trans hst) hany his, hrefused]
  · rw [resolveJoin_accepts (hrecord.trans hst) hc]
    refine ⟨fun hp => ?_, fun hp => ?_, fun hp => ?_⟩
    · rw [acceptJoin_absent (hrecord.trans hst) hp]
      rfl
    · rw [acceptJoin_acquiring (hrecord.trans hst) hp]
      rfl
    · rw [acceptJoin_present (hrecord.trans hst) hp]
      rfl

end Sys2Proof.Machine
end

section
/-! The payload of a segment that LIF hands over holds at most 8 bytes (R140, R142). -/

namespace Sys2Proof.Machine

-- One proof after another, not in parallel: the whole text compiles under a bound on memory.
set_option Elab.async false

/-- A receive class hands over no payload of more than 8 bytes. -/
def RxClass.Short (cls : RxClass) : Prop := ∀ seg, cls = .good seg → seg.payload.length ≤ 8

/-- A phase, where it is settled, has such a class. -/
def RxPhase.Short (phase : RxPhase) : Prop := ∀ r, phase = .settled r → r.cls.Short

theorem segmentOf_payload {bits : List Bool} {seg : Segment} (h : segmentOf bits = some seg) :
    seg.payload.length ≤ 8 := by
  simp only [segmentOf] at h
  split at h
  · cases h
  · split at h
    · rename_i hp
      cases h
      rw [length_bytesOf]
      exact hp
    · cases h

theorem classOfCells_short (cells : List Bool) : (classOfCells cells).Short := by
  intro seg h
  simp only [classOfCells] at h
  split at h
  · split at h
    · rename_i seg' hs
      cases h
      exact segmentOf_payload hs
    · cases h
  · cases h

theorem takeCell_short {stage : RxStage} {v : Bool} {cls : RxClass} {cells : List Bool}
    (h : takeCell stage v = .inl (cls, cells)) : cls.Short := by
  cases stage with
  | preamble n held =>
    simp only [takeCell] at h
    split at h
    · cases h
    · split at h <;> cases h
      exact fun seg hs => by cases hs
  | header left lead held =>
    simp only [takeCell] at h
    split at h
    · split at h <;> cases h
      exact fun seg hs => by cases hs
    · cases h
  | rest left lead held =>
    simp only [takeCell] at h
    split at h <;> cases h
    exact classOfCells_short _

theorem closeCell_short (t : Tracking) (stage : RxStage) : (closeCell t stage).Short := by
  intro r h
  unfold closeCell at h
  split at h
  · cases h
    exact fun seg hs => by cases hs
  · split at h <;> cases h
    rename_i htake
    exact takeCell_short htake

theorem closeSpans_short (fuel before : Nat) {phase : RxPhase} (h : phase.Short) :
    (closeSpans fuel before phase).Short := by
  induction fuel generalizing phase with
  | zero => exact h
  | succ fuel ih =>
    unfold closeSpans
    split
    · split
      · exact ih (closeCell_short _ _)
      · exact h
    · exact h
    · exact h
    · exact h

theorem lockOn_short (run : List Edge) : (lockOn run).Short := by
  intro r h
  simp only [lockOn] at h
  split at h <;> cases h

theorem candidateRun_short (run : List Edge) : (if run.length = 4 then lockOn run else .wait run : RxPhase).Short := by
  split
  · exact lockOn_short run
  · exact fun r hr => by cases hr

theorem hearEdge_short (e : Edge) {phase : RxPhase} (h : phase.Short) : (hearEdge phase e).Short := by
  have hclosed := closeSpans_short cellFuel e.time h
  unfold hearEdge
  split
  · exact candidateRun_short _
  · exact fun r hr => by cases hr
  · exact fun r hr => by cases hr
  · rename_i heq
    rwa [heq] at hclosed

theorem foldl_hearEdge_short (es : List Edge) {phase : RxPhase} (h : phase.Short) : (es.foldl hearEdge phase).Short := by
  induction es generalizing phase with
  | nil => exact h
  | cons e es ih => exact ih (hearEdge_short e h)

theorem closePart_short {phase : RxPhase} (h : phase.Short) : (closePart phase).cls.Short := by
  cases phase with
  | settled r => exact h r rfl
  | wait _ | decode _ _ | late _ _ _ => exact fun seg hs => by cases hs

/-- What an open receive part settles to hands over a payload of at most 8 bytes (R140, R142). -/
theorem hear_short {edges : List Edge} {upTo : Nat} {phase : RxPhase} (ho : partOpen phase = true) :
    (hear edges upTo phase).Short := by
  have hopen : phase.Short := fun r hr => by
    rw [hr] at ho
    cases ho
  simp only [hear]
  have hheard := closeSpans_short cellFuel (min upTo closing + 1) (foldl_hearEdge_short
    (edges.filter fun e => decide (e.time ≤ upTo) && decide (e.time < closing)) hopen)
  split
  · intro r hr
    cases hr
    exact closePart_short hheard
  · exact hheard

end Sys2Proof.Machine
end

section
/-! The records and the stranger set in order, under every named operation of the model (R39, R46, R55, R56, R69, R85, R102,
R107, R117, R121). -/

namespace Sys2Proof.Machine

-- One proof after another, not in parallel: the whole text compiles under a bound on memory.
set_option Elab.async false

/-! ### A record in order -/

/-- What StationOk says of a record, under given settings, in a run or outside one. -/
structure RecordInv (c : Settings) (run : Bool) (st : Station) : Prop where
  good : st.good ≤ c.lockIn
  miss : st.miss ≤ c.lockOut
  presence : st.presence ≠ .absent → run = true
  heard : run = false → st.heard = false
  inFlight : ∀ r, st.inFlight = some r → (r.started = true → st.presence = .present) ∧ r.retries ≤ c.retryLimit
  context : ∀ x, st.context = some x →
    st.presence = .present ∧ x.bytes.length ≤ 64 ∧ 1 ≤ x.segments ∧ x.segments ≤ 8
  sequence : ∀ q, st.lastAccepted = some q → st.upExpected = q + 1

theorem stationOk_iff (st : Station) (s : State) : StationOk st s ↔ RecordInv s.rex.config (inRun s) st :=
  ⟨fun ⟨h1, h2, h3, h4, h5, h6, h7⟩ => ⟨h1, h2, h3, h4, h5, h6, h7⟩,
    fun ⟨h1, h2, h3, h4, h5, h6, h7⟩ => ⟨h1, h2, h3, h4, h5, h6, h7⟩⟩

section Record
variable {c : Settings} {run : Bool} {st : Station}

theorem RecordInv.countIn (h : RecordInv c run st) (k : StationCounter) : RecordInv c run (countIn k st) := { h with }

/-- In a run, a record may be as it was outside one. -/
theorem RecordInv.enterRun (h : RecordInv c run st) : RecordInv c true st :=
  { h with presence := fun _ => rfl, heard := fun e => by cases e }

theorem RecordInv.withInFlight (h : RecordInv c run st) {o : Option InFlight} (ho : ∀ r, o = some r →
    (r.started = true → st.presence = .present) ∧ r.retries ≤ c.retryLimit) :
    RecordInv c run { st with inFlight := o } :=
  { h with inFlight := ho }

theorem RecordInv.rewound (h : RecordInv c run st) : RecordInv c run (rewindStation st) := by
  refine h.withInFlight fun r hr => ?_
  obtain ⟨x, -, rfl⟩ := Option.map_eq_some_iff.mp hr
  exact ⟨(fun e => by cases e), Nat.zero_le _⟩

/-- A record is held, or is fresh (R85). -/
theorem headRecord_cases {ρ : Type} {handleOf : ρ → Nat} {fresh : Nat → ρ} {queue : List Nat} {held : Option ρ} {r : ρ}
    (h : headRecord handleOf fresh queue held = some r) : held = some r ∨ ∃ k, r = fresh k := by
  unfold headRecord at h
  split at h
  · cases h
  · split at h
    · split at h <;> cases h
      · exact .inl rfl
      · exact .inr ⟨_, rfl⟩
    · cases h
      exact .inr ⟨_, rfl⟩

theorem RecordInv.requeued (h : RecordInv c run st) (queue : List Nat) : RecordInv c run
    { st with queue := queue, inFlight := headRecord InFlight.handle freshInFlight queue st.inFlight } := by
  have hq : RecordInv c run { st with queue := queue } := { h with }
  refine hq.withInFlight fun r hr => ?_
  rcases headRecord_cases hr with hr | ⟨k, rfl⟩
  · exact h.inFlight r hr
  · exact ⟨(fun e => by cases e), Nat.zero_le _⟩

theorem RecordInv.discarded (h : RecordInv c run st) : RecordInv c run { st with context := none } :=
  { h with context := fun _ e => by cases e }

/-- An acknowledged segment is the last accepted one, and the next is expected (R117). -/
theorem RecordInv.acknowledged (h : RecordInv c run st) (u : Seq) : RecordInv c run (acknowledgeIn u st) :=
  { h with sequence := fun _ e => by cases e; rfl }

/-- A station that is not PRESENT has no context and no started message; with these it may take another presence, other
counts and other sequences. -/
theorem RecordInv.of_not_present (h : RecordInv c run st) (hp : st.presence ≠ .present) {r : Station}
    (hf : r.inFlight = st.inFlight) (hc : r.context = st.context) (hgood : r.good ≤ c.lockIn) (hmiss : r.miss ≤ c.lockOut)
    (hpresence : r.presence ≠ .absent → run = true) (hheard : run = false → r.heard = false)
    (hsequence : ∀ q, r.lastAccepted = some q → r.upExpected = q + 1) : RecordInv c run r where
  good := hgood
  miss := hmiss
  presence := hpresence
  heard := hheard
  inFlight := fun x hx => by
    obtain ⟨hstarted, hretries⟩ := h.inFlight x (hf ▸ hx)
    exact ⟨fun e => absurd (hstarted e) hp, hretries⟩
  context := fun x hx => absurd (h.context x (hc ▸ hx)).1 hp
  sequence := hsequence

end Record

/-! ### The records, the broadcast record and the stranger set in order -/

/-- StationInv and StrangerInv under given settings, in a run or outside one. -/
structure RosterOk (c : Settings) (run : Bool) (s : State) : Prop where
  config : s.rex.config = c
  inRun : Machine.inRun s = run
  stations : ∀ a st, station a s = some st → RecordInv c run st
  broadcast : ∀ r, s.dlv.inFlight = some r → (r.started = true → run = true) ∧ r.sends ≤ c.repeats
  strangers : StrangerInv s

/-- What StationInv and StrangerInv read of the state. -/
structure Roster where
  stt : Stt
  broadcast : Option BroadcastInFlight
  config : Settings
  state : EngineState

/-- The roster of a state. -/
def roster (s : State) : Roster :=
  { stt := s.stt, broadcast := s.dlv.inFlight, config := s.rex.config, state := s.cye.state }

@[simp] theorem roster_countGlobal (c : GlobalCounter) (s : State) : roster (countGlobal c s) = roster s := rfl
@[simp] theorem roster_returnUp (s : State) : roster (returnUp s) = roster s := rfl
@[simp] theorem roster_reply (kind tag : Byte) (st : Status) (items : List Byte) (s : State) :
    roster (reply kind tag st items s) = roster s := rfl
@[simp] theorem roster_setAdmission (r : AdmitResult) (e : Nat) (s : State) : roster (setAdmission r e s) = roster s := rfl
@[simp] theorem roster_handOver (seg : Segment) (s : State) : roster (handOver seg s) = roster s := rfl
@[simp] theorem roster_arbitrate (s : State) : roster (arbitrate s) = roster s := by simp [roster]
@[simp] theorem roster_joinEither (a b : Option Frame) (s : State) : roster (joinEither a b s) = roster s := by
  simp [roster]

@[simp] theorem roster_offer (n : Notice) (s : State) : roster (offer n s) = roster s := by
  rw [offer_frame]
  rfl

theorem roster_settle (slot : RxSlot) (r : Reception) (s : State) : roster (settle slot r s) = roster s := by
  simp only [settle]
  split <;> rfl

section Rules
variable {c : Settings} {run : Bool} {s t : State}

theorem RosterOk.congr (h : RosterOk c run s) (e : roster t = roster s) : RosterOk c run t := by
  have hstt : t.stt = s.stt := congrArg Roster.stt e
  have hdlv : t.dlv.inFlight = s.dlv.inFlight := congrArg Roster.broadcast e
  have hstate : t.cye.state = s.cye.state := congrArg Roster.state e
  refine ⟨(congrArg Roster.config e).trans h.config, ?_, fun a st hst => ?_, fun r hr => ?_, ?_⟩
  · rw [← h.inRun, Machine.inRun, Machine.inRun, hstate]
  · rw [station_congr (congrArg Stt.records hstt)] at hst
    exact h.stations a st hst
  · rw [hdlv] at hr
    exact h.broadcast r hr
  · unfold StrangerInv
    rw [hstt]
    exact h.strangers

/-- The engine moves to another state, and into a run or on in one where it leaves one out: no record is touched. -/
theorem RosterOk.enter {run' : Bool} (h : RosterOk c run s) (hroster : { roster t with state := s.cye.state } = roster s)
    (hrun : Machine.inRun t = run') (hle : run = true → run' = true) : RosterOk c run' t := by
  have hstt : t.stt = s.stt := congrArg Roster.stt hroster
  have hdlv : t.dlv.inFlight = s.dlv.inFlight := congrArg Roster.broadcast hroster
  have hrecord : ∀ st, RecordInv c run st → RecordInv c run' st := by
    intro st hst
    cases run' with
    | true => exact hst.enterRun
    | false => exact Bool.eq_false_of_not_eq_true (fun e => by cases hle e) ▸ hst
  refine ⟨(congrArg Roster.config hroster).trans h.config, hrun, fun a st hst => ?_, fun r hr => ?_, ?_⟩
  · rw [station_congr (congrArg Stt.records hstt)] at hst
    exact hrecord st (h.stations a st hst)
  · rw [hdlv] at hr
    obtain ⟨hstarted, hsends⟩ := h.broadcast r hr
    exact ⟨fun e => hle (hstarted e), hsends⟩
  · unfold StrangerInv
    rw [hstt]
    exact h.strangers

theorem RosterOk.setStation (h : RosterOk c run s) (a : Nat) {r : Option Station}
    (hr : ∀ st, r = some st → RecordInv c run st) : RosterOk c run (setStation a r s) := by
  refine ⟨(congrArg Rex.config (setStation_rex a r s)).trans h.config, ?_, fun b st hst => ?_, fun x hx => ?_, ?_⟩
  · rw [← h.inRun, Machine.inRun, Machine.inRun, setStation_cye]
  · by_cases hb : b = a
    · subst hb
      rw [station_setStation_same (station_isSome_range hst)] at hst
      exact hr st hst
    · rw [station_setStation_other hb] at hst
      exact h.stations b st hst
  · rw [setStation_dlv] at hx
    exact h.broadcast x hx
  · unfold StrangerInv
    rw [setStation_strangers]
    exact h.strangers

theorem RosterOk.onStation (h : RosterOk c run s) (a : Nat) {f : Station → Station}
    (hf : ∀ st, station a s = some st → RecordInv c run st → RecordInv c run (f st)) :
    RosterOk c run (onStation a f s) := by
  cases hst : station a s with
  | none => rwa [onStation_none hst]
  | some st =>
    rw [onStation_some hst]
    refine h.setStation a fun r hr => ?_
    cases hr
    exact hf st hst (h.stations a st hst)

theorem RosterOk.onStations (h : RosterOk c run s) {f : Station → Station}
    (hf : ∀ st, RecordInv c run st → RecordInv c run (f st)) : RosterOk c run (onStations f s) := by
  refine ⟨h.config, h.inRun, fun a st hst => ?_, h.broadcast, h.strangers⟩
  rw [station_onStations] at hst
  obtain ⟨r, hr, rfl⟩ := Option.map_eq_some_iff.mp hst
  exact hf r (h.stations a r hr)

/-- What happened at one station left the others, the broadcast record, the settings, the engine and the strangers. -/
theorem RosterOk.happensAt (h : RosterOk c run s) {a : Nat} {ns : List Notice} {cs : List GlobalCounter}
    (ht : HappensAt a ns cs s t) (hr : ∀ st, station a t = some st → RecordInv c run st) : RosterOk c run t := by
  have he := ht.eq
  have hstate : t.cye.state = s.cye.state := by rw [he]
  have hstrangers : t.stt.strangers = s.stt.strangers := by rw [he]
  have hdlv : t.dlv = s.dlv := by rw [he]
  have hrex : t.rex = s.rex := by rw [he]
  refine ⟨hrex ▸ h.config, ?_, fun b st hst => ?_, fun x hx => h.broadcast x (hdlv ▸ hx), ?_⟩
  · rw [← h.inRun, Machine.inRun, Machine.inRun, hstate]
  · by_cases hb : b = a
    · exact hr st (hb ▸ hst)
    · exact h.stations b st (ht.others b hb ▸ hst)
  · unfold StrangerInv
    rw [hstrangers]
    exact h.strangers

theorem RosterOk.withBroadcast (h : RosterOk c run s) {dlv : Dlv} (hb : ∀ r, dlv.inFlight = some r →
    (r.started = true → run = true) ∧ r.sends ≤ c.repeats) : RosterOk c run { s with dlv := dlv } :=
  ⟨h.config, h.inRun, h.stations, hb, h.strangers⟩

theorem RosterOk.withStrangers (h : RosterOk c run s) {xs : List Stranger}
    (hx : StrangerInv { s with stt.strangers := xs }) : RosterOk c run { s with stt.strangers := xs } :=
  ⟨h.config, h.inRun, h.stations, h.broadcast, hx⟩

theorem RosterOk.countStation (h : RosterOk c run s) (a : Nat) (k : StationCounter) : RosterOk c run (countStation a k s) :=
  h.onStation a fun _ _ hst => hst.countIn k

theorem RosterOk.discardContext (h : RosterOk c run s) (a : Nat) : RosterOk c run (discardContext a s) := by
  unfold Machine.discardContext
  split
  · split
    · exact (h.onStation a fun _ _ hst => hst.discarded).congr rfl
    · exact h
  · exact h

/-! ### Messages and queues (R84 to R86, R96, R97) -/

theorem RosterOk.setQueue (h : RosterOk c run s) (d : Nat) (queue : List Nat) : RosterOk c run (setQueue d queue s) := by
  unfold Machine.setQueue
  split
  · refine (h.withBroadcast (dlv := { s.dlv with
      queue := queue, inFlight := headRecord BroadcastInFlight.handle freshBroadcast queue s.dlv.inFlight })
      fun r hr => ?_).congr rfl
    rcases headRecord_cases hr with hr | ⟨k, rfl⟩
    · exact h.broadcast r hr
    · exact ⟨(fun e => by cases e), Nat.zero_le _⟩
  · exact (h.onStation d fun _ _ hst => hst.requeued queue).congr rfl

theorem RosterOk.countStationResult (h : RosterOk c run s) (d : Nat) (r : Result) :
    RosterOk c run (countStationResult d r s) := by
  cases r with
  | delivered => exact h.countStation d .messagesDelivered
  | failed => exact h.countStation d .messagesFailed
  | discarded | cancelled => exact h

theorem RosterOk.endMessage (h : RosterOk c run s) (k : Nat) (r : Result) (w : Reason) :
    RosterOk c run (endMessage k r w s) := by
  unfold Machine.endMessage
  split
  · exact h
  · rename_i m _
    have hqueue := h.setQueue m.dest ((queueOf m.dest s).erase k)
    refine RosterOk.congr (RosterOk.countStationResult ?_ m.dest r) (roster_offer _ _)
    exact hqueue.congr rfl

/-- What each operation of a run of them keeps, the run keeps. -/
theorem foldl_keeps {α : Type} {P : State → Prop} {f : State → α → State} (hf : ∀ u x, P u → P (f u x)) (xs : List α)
    {u : State} (h : P u) : P (xs.foldl f u) := by
  induction xs generalizing u with
  | nil => exact h
  | cons x xs ih => exact ih (hf u x h)

theorem RosterOk.endMessages (h : RosterOk c run s) (ks : List Nat) (r : Result) (w : Reason) :
    RosterOk c run (endMessages ks r w s) :=
  foldl_keeps (fun _ k hu => hu.endMessage k r w) ks h

theorem RosterOk.endQueue (h : RosterOk c run s) (queue : List Nat) (w : Reason) (behind : Bool) :
    RosterOk c run (endQueue queue w behind s) := by
  unfold Machine.endQueue
  split
  · exact h
  · dsimp only
    split
    · exact (h.endMessage _ _ _).endMessages _ _ _
    · exact h.endMessage _ _ _

theorem RosterOk.rewindBroadcast (h : RosterOk c run s) : RosterOk c run (rewindBroadcast s) := by
  refine h.withBroadcast fun r hr => ?_
  obtain ⟨x, -, rfl⟩ := Option.map_eq_some_iff.mp hr
  exact ⟨(fun e => by cases e), Nat.zero_le _⟩

/-! ### The swap (R34, R36) -/

theorem RosterOk.rewindUnscheduled (h : RosterOk c run s) : RosterOk c run (rewindUnscheduled s) := by
  have hlisted : RosterOk c run (rewindListed s.sbk.active (List.range' 1 30) s) := by
    refine foldl_keeps (fun u a hu => ?_) _ h
    split
    · exact hu
    · exact hu.onStation a fun _ _ hst => hst.rewound
  rw [rewindUnscheduled_eq]
  split
  · exact hlisted
  · exact hlisted.rewindBroadcast

theorem RosterOk.swap (h : RosterOk c run s) : RosterOk c run (swap s) :=
  RosterOk.rewindUnscheduled (h.congr rfl)

theorem RosterOk.swapPending (h : RosterOk c run s) : RosterOk c run (swapPending s) := by
  unfold Machine.swapPending
  split
  · exact h.swap
  · exact h

/-! ### DOWN slots (R87 to R90) -/

theorem RosterOk.sendData (h : RosterOk c run s) {a : Nat} {st : Station} {r : InFlight} (m : Message)
    (hst : station a s = some st) (hp : st.presence = .present) (hr : st.inFlight = some r) :
    RosterOk c run (sendData a st r m s) := by
  have hretries := ((h.stations a st hst).inFlight r hr).2
  have hsent : ∀ (x : Station) (q : Seq), station a s = some x → RecordInv c run x →
      RecordInv c run { x with inFlight := some { r with seqSent := some q, started := true, phase := .awaitingAck } } := by
    intro x q hx hok
    refine hok.withInFlight fun y hy => ?_
    cases hst.symm.trans hx
    cases hy
    exact ⟨fun _ => hp, hretries⟩
  simp only [Machine.sendData]
  split
  · refine RosterOk.congr ?_ (roster_handOver _ _)
    refine h.onStation a fun x hx hok => RecordInv.countIn ?_ _
    have hnext := hsent x (r.seqSent.getD st.downNext) hx hok
    exact { hnext with }
  · refine RosterOk.congr ?_ (roster_handOver _ _)
    exact h.onStation a fun x hx hok => (hsent x (r.seqSent.getD st.downNext) hx hok).countIn _

theorem RosterOk.stationDownSlot (h : RosterOk c run s) (a : Nat) : RosterOk c run (stationDownSlot a s) := by
  unfold Machine.stationDownSlot
  split
  · exact h.congr rfl
  · rename_i st hst
    split
    · rename_i hp
      split
      · rename_i r hr
        split
        · split
          · exact h.sendData _ hst hp hr
          · exact h.congr rfl
        · exact h.congr rfl
      · exact h.congr rfl
    · exact h.congr rfl

theorem afterBroadcastSend_sends {repeats : Nat} (q : Seq) {r : BroadcastInFlight} (h : r.sends ≤ repeats) :
    (afterBroadcastSend repeats q r).sends ≤ repeats := by
  unfold afterBroadcastSend
  split
  · exact Nat.zero_le _
  · rename_i hne
    exact Nat.lt_of_le_of_ne h fun e => hne (congrArg (· + 1) e)

theorem RosterOk.broadcastDownSlot (h : RosterOk c true s) : RosterOk c true (broadcastDownSlot s) := by
  simp only [Machine.broadcastDownSlot]
  split
  · exact h.congr rfl
  · rename_i r hr
    split
    · exact h.congr rfl
    · rename_i m _
      have hsent : RosterOk c true { s with
          dlv := { s.dlv with
            next := if r.seqSent.isNone then s.dlv.next + 1 else s.dlv.next,
            inFlight := some (afterBroadcastSend s.rex.config.repeats (r.seqSent.getD s.dlv.next) r) } } := by
        refine h.withBroadcast fun x hx => ?_
        cases hx
        rw [h.config]
        exact ⟨fun _ => rfl, afterBroadcastSend_sends _ (h.broadcast r hr).2⟩
      split
      · refine RosterOk.endMessage ?_ _ _ _
        exact hsent.congr rfl
      · exact hsent.congr rfl

theorem RosterOk.downSlot (h : RosterOk c true s) (owner : Nat) : RosterOk c true (downSlot owner s) := by
  unfold Machine.downSlot
  split
  · exact h.broadcastDownSlot
  · exact h.stationDownSlot owner

theorem RosterOk.startSlot (h : RosterOk c true s) : RosterOk c true (startSlot s) := by
  simp only [Machine.startSlot]
  split
  · exact h.congr rfl
  · refine RosterOk.downSlot ?_ _
    exact h.congr rfl
  · exact h.congr rfl
  · exact h.congr rfl

end Rules

end Sys2Proof.Machine
end

section
/-! The records and the stranger set in order, under what LIF reports and at a cycle end (R48 to R53, R55, R69 to R71, R92 to
R94, R109 to R123). -/

namespace Sys2Proof.Machine

-- One proof after another, not in parallel: the whole text compiles under a bound on memory.
set_option Elab.async false

section Reports
variable {c : Settings} {run : Bool} {s : State}

/-! ### The judgement of an outstanding segment (R92 to R94) -/

theorem RosterOk.onInFlight (h : RosterOk c run s) (a : Nat) {f : InFlight → InFlight}
    (hf : ∀ st r, station a s = some st → st.inFlight = some r → r.retries ≤ c.retryLimit →
      ((f r).started = true → r.started = true) ∧ (f r).retries ≤ c.retryLimit) : RosterOk c run (onInFlight a f s) := by
  refine h.onStation a fun st hst hok => hok.withInFlight fun x hx => ?_
  obtain ⟨r, hr, rfl⟩ := Option.map_eq_some_iff.mp hx
  obtain ⟨hstarted, hretries⟩ := hok.inFlight r hr
  obtain ⟨hfstarted, hfretries⟩ := hf st r hst hr hretries
  exact ⟨fun e => hstarted (hfstarted e), hfretries⟩

/-- What awaits a judgement is the in-flight record of the station (R91, R92). -/
theorem awaiting_some {a : Nat} {r : InFlight} {m : Message} (h : awaiting a s = some (r, m)) :
    ∃ st, station a s = some st ∧ st.inFlight = some r := by
  unfold awaiting at h
  split at h
  · rename_i st hst
    split at h
    · rename_i x hx
      split at h
      · split at h <;> cases h
        exact ⟨st, hst, hx⟩
      · cases h
    · cases h
  · cases h

theorem RosterOk.judgeAcked (h : RosterOk c run s) (a : Nat) (r : InFlight) (m : Message) :
    RosterOk c run (judgeAcked a r m s) := by
  have hcounted := h.countStation a .segmentsAcknowledged
  simp only [Machine.judgeAcked]
  split
  · exact hcounted.endMessage _ _ _
  · exact hcounted.onInFlight a fun _ _ _ _ _ => ⟨id, Nat.zero_le _⟩

theorem RosterOk.judgeBusy (h : RosterOk c run s) (a : Nat) (r : InFlight) : RosterOk c run (judgeBusy a r s) := by
  have hcounted := h.countStation a .busyAnswers
  simp only [Machine.judgeBusy]
  split
  · exact hcounted.endMessage _ _ _
  · exact hcounted.onInFlight a fun _ _ _ _ hretries => ⟨id, hretries⟩

theorem RosterOk.judgeUnanswered (h : RosterOk c run s) {a : Nat} {st : Station} {r : InFlight}
    (hst : station a s = some st) (hr : st.inFlight = some r) : RosterOk c run (judgeUnanswered a r s) := by
  have hcounted := h.countStation a .unansweredJudgements
  simp only [Machine.judgeUnanswered]
  split
  · rename_i hlimit
    rw [h.config] at hlimit
    refine hcounted.onInFlight a fun x y hx hy _ => ⟨id, ?_⟩
    rw [Machine.countStation, station_onStation_same, hst] at hx
    cases hx
    cases hr.symm.trans hy
    exact hlimit
  · exact hcounted.endMessage _ _ _

theorem RosterOk.takeAnswer (h : RosterOk c run s) (a : Nat) (ans : Option Answer) :
    RosterOk c run (takeAnswer a ans s) := by
  unfold Machine.takeAnswer
  split
  · exact h
  · rename_i r m haw
    obtain ⟨st, hst, hr⟩ := awaiting_some haw
    split
    · split
      · exact h.judgeAcked a r m
      · split
        · exact h.judgeBusy a r
        · exact h.judgeUnanswered hst hr
    · exact h.judgeUnanswered hst hr

/-! ### The presence that a judgement finds -/

/-- The presence of an address, where it has a record. -/
def presenceOf (a : Nat) (s : State) : Option Presence := (station a s).map Station.presence

theorem presenceOf_some {a : Nat} {st : Station} (h : station a s = some st) : presenceOf a s = some st.presence := by
  rw [presenceOf, h]
  rfl

theorem presenceOf_congr {a : Nat} {s t : State} (h : t.stt = s.stt) : presenceOf a t = presenceOf a s :=
  congrArg (Option.map Station.presence) (station_congr (congrArg Stt.records h))

theorem presenceOf_onStation {f : Station → Station} (hf : ∀ st, (f st).presence = st.presence) (a b : Nat) (s : State) :
    presenceOf b (onStation a f s) = presenceOf b s := by
  by_cases hb : b = a
  · subst hb
    rw [presenceOf, station_onStation_same, Option.map_map]
    exact congrArg (fun g => Option.map g (station b s)) (funext hf)
  · rw [presenceOf, station_onStation_other f s hb, presenceOf]

theorem presenceOf_setQueue (d : Nat) (queue : List Nat) (b : Nat) (s : State) :
    presenceOf b (setQueue d queue s) = presenceOf b s := by
  unfold setQueue
  split
  · rfl
  · exact (presenceOf_congr rfl).trans (presenceOf_onStation (fun _ => by rfl) d b s)

theorem presenceOf_countStationResult (d : Nat) (r : Result) (b : Nat) (s : State) :
    presenceOf b (countStationResult d r s) = presenceOf b s := by
  cases r
  · exact presenceOf_onStation (fun _ => by rfl) d b s
  · exact presenceOf_onStation (fun _ => by rfl) d b s
  · rfl
  · rfl

theorem presenceOf_endMessage (k : Nat) (r : Result) (w : Reason) (b : Nat) (s : State) :
    presenceOf b (endMessage k r w s) = presenceOf b s := by
  unfold endMessage
  split
  · rfl
  · rename_i m _
    rw [presenceOf_congr (congrArg Roster.stt (roster_offer _ _)), presenceOf_countStationResult]
    exact presenceOf_setQueue m.dest _ b s

theorem presenceOf_countStation (a : Nat) (k : StationCounter) (b : Nat) (s : State) :
    presenceOf b (countStation a k s) = presenceOf b s :=
  presenceOf_onStation (fun _ => by rfl) a b s

theorem presenceOf_onInFlight (a : Nat) (f : InFlight → InFlight) (b : Nat) (s : State) :
    presenceOf b (onInFlight a f s) = presenceOf b s :=
  presenceOf_onStation (fun _ => by rfl) a b s

theorem presenceOf_judgeUnanswered (a : Nat) (r : InFlight) (b : Nat) (s : State) :
    presenceOf b (judgeUnanswered a r s) = presenceOf b s := by
  simp only [judgeUnanswered]
  split
  · rw [presenceOf_onInFlight, presenceOf_countStation]
  · rw [presenceOf_endMessage, presenceOf_countStation]

theorem presenceOf_judgeBusy (a : Nat) (r : InFlight) (b : Nat) (s : State) :
    presenceOf b (judgeBusy a r s) = presenceOf b s := by
  simp only [judgeBusy]
  split
  · rw [presenceOf_endMessage, presenceOf_countStation]
  · rw [presenceOf_onInFlight, presenceOf_countStation]

theorem presenceOf_judgeAcked (a : Nat) (r : InFlight) (m : Message) (b : Nat) (s : State) :
    presenceOf b (judgeAcked a r m s) = presenceOf b s := by
  simp only [judgeAcked]
  split
  · rw [presenceOf_endMessage, presenceOf_countStation]
  · rw [presenceOf_onInFlight, presenceOf_countStation]

theorem presenceOf_takeAnswer (a : Nat) (ans : Option Answer) (b : Nat) (s : State) :
    presenceOf b (takeAnswer a ans s) = presenceOf b s := by
  unfold takeAnswer
  split
  · rfl
  · split
    · split
      · exact presenceOf_judgeAcked _ _ _ _ _
      · split
        · exact presenceOf_judgeBusy _ _ _ _
        · exact presenceOf_judgeUnanswered _ _ _ _
    · exact presenceOf_judgeUnanswered _ _ _ _

/-! ### DATA of a PRESENT station (R116 to R123) -/

theorem RecordInv.busyAnswer {st : Station} (h : RecordInv c run st) (b : Bool) :
    RecordInv c run { st with busyAnswer := b } := { h with }

theorem RosterOk.answerBusy (h : RosterOk c run s) (a : Nat) : RosterOk c run (answerBusy a s) :=
  h.onStation a fun _ _ hok => (hok.busyAnswer true).countIn _

theorem RosterOk.complete (h : RosterOk c run s) (a : Nat) (bytes : List Byte) : RosterOk c run (complete a bytes s) := by
  simp only [Machine.complete]
  split
  · refine RosterOk.congr (RosterOk.countStation ?_ a .messagesCompleted) (roster_offer _ _)
    exact h.congr rfl
  · refine RosterOk.congr (RosterOk.countStation ?_ a .messagesCompleted) (roster_countGlobal _ _)
    exact h.congr rfl

/-- The context that a segment extends: a new one for a segment with first set (R117). -/
def baseContext (st : Station) (seg : Segment) : Context :=
  if seg.first then { bytes := [], segments := 0 } else st.context.getD { bytes := [], segments := 0 }

theorem RosterOk.acceptSegment (h : RosterOk c run s) {a : Nat} (st : Station) {seg : Segment}
    (hp : presenceOf a s = some .present) (hbytes : (baseContext st seg).bytes.length + seg.payload.length ≤ 64)
    (hsegments : (baseContext st seg).segments + 1 ≤ 8) : RosterOk c run (acceptSegment a st seg s) := by
  let x : Context :=
    { bytes := (baseContext st seg).bytes ++ seg.payload, segments := (baseContext st seg).segments + 1 }
  let t := if st.context.isSome then s else lendUp s
  let u := if seg.first ∧ st.context.isSome then Machine.countStation a .contextsAbandoned t else t
  have ht : RosterOk c run t ∧ presenceOf a t = some .present := by
    simp only [t]
    split
    · exact ⟨h, hp⟩
    · exact ⟨h.congr rfl, hp⟩
  have hu : RosterOk c run u ∧ presenceOf a u = some .present := by
    obtain ⟨ht, htp⟩ := ht
    simp only [u]
    split
    · exact ⟨ht.countStation a _, (presenceOf_onStation (fun _ => by rfl) a a t).trans htp⟩
    · exact ⟨ht, htp⟩
  obtain ⟨hu, hup⟩ := hu
  let v := Machine.onStation a (fun y => Machine.countIn .segmentsAccepted
    { acknowledgeIn seg.seq y with context := if seg.last then none else some x }) u
  have hv : RosterOk c run v := by
    refine hu.onStation a fun y hy hok => RecordInv.countIn ?_ _
    have hpresent : y.presence = .present := Option.some.inj ((presenceOf_some hy).symm.trans hup)
    have hlength : x.bytes.length ≤ 64 := by
      simp only [x, List.length_append]
      exact hbytes
    have hack := hok.acknowledged seg.seq
    refine { hack with context := fun z hz => ?_ }
    dsimp only at hz
    split at hz <;> cases hz
    exact ⟨hpresent, hlength, Nat.succ_le_succ (Nat.zero_le _), hsegments⟩
  have heq : Machine.acceptSegment a st seg s = if seg.last then Machine.complete a x.bytes v else v := rfl
  rw [heq]
  split
  · exact hv.complete a _
  · exact hv

theorem RosterOk.takeInSequence (h : RosterOk c run s) {a : Nat} (st : Station) {seg : Segment}
    (hp : presenceOf a s = some .present) (hseg : seg.payload.length ≤ 8) :
    RosterOk c run (takeInSequence a st seg s) := by
  have hack : ∀ k {u : State}, RosterOk c run u →
      RosterOk c run (Machine.onStation a (fun x => countIn k (acknowledgeIn seg.seq x)) u) := fun k _ hu =>
    hu.onStation a fun _ _ hok => (hok.acknowledged seg.seq).countIn k
  have hbase : (if seg.first then { bytes := [], segments := 0 }
      else st.context.getD { bytes := [], segments := 0 } : Context) = baseContext st seg := rfl
  simp only [Machine.takeInSequence, hbase]
  split
  · exact hack _ h
  · split
    · exact hack _ (h.discardContext a)
    · rename_i hfit
      split
      · exact hack _ (h.discardContext a)
      · split
        · exact (h.answerBusy a).congr rfl
        · split
          · exact (h.answerBusy a).congr rfl
          · have hbounds : (baseContext st seg).bytes.length + seg.payload.length ≤ 64 ∧
                (baseContext st seg).segments + 1 ≤ 8 := by
              cases hfirst : seg.first with
              | true =>
                simp only [baseContext, hfirst, if_true, List.length_nil]
                omega
              | false =>
                simp only [hfirst, Config.bufferSize] at hfit
                simp at hfit
                omega
            exact h.acceptSegment st hp hbounds.1 hbounds.2

theorem RosterOk.takeData (h : RosterOk c run s) {a : Nat} {seg : Segment} (hp : presenceOf a s = some .present)
    (hseg : seg.payload.length ≤ 8) : RosterOk c run (takeData a seg s) := by
  unfold Machine.takeData
  split
  · exact h
  · split
    · exact h.takeInSequence _ hp hseg
    · split
      · exact h.onStation a fun _ _ hok => (hok.busyAnswer false).countIn _
      · exact h.onStation a fun _ _ hok => (hok.busyAnswer false).countIn _

/-! ### UP slots (R109 to R113) -/

theorem RosterOk.judgeCurrent (h : RosterOk c run s) {a : Nat} {st : Station} {seg : Segment}
    (hp : presenceOf a s = some st.presence) (hseg : seg.payload.length ≤ 8) :
    RosterOk c run (judgeCurrent a st seg s) := by
  simp only [Machine.judgeCurrent]
  split
  · split
    · rename_i hpresent
      rw [hpresent] at hp
      have hchoice : RosterOk c run { s with choices := s.choices + 1 } := h.congr rfl
      split
      · split
        · exact (hchoice.takeData hp hseg).takeAnswer a _
        · exact (hchoice.takeAnswer a _).takeData ((presenceOf_takeAnswer a _ a _).trans hp) hseg
      · exact h.takeData hp hseg
    · exact (h.countStation a _).takeAnswer a _
  · exact h.takeAnswer a _

/-- A station is heard in a run alone (R14, R110). -/
theorem RosterOk.hear (h : RosterOk c true s) (a : Nat) :
    RosterOk c true (Machine.onStation a (fun x => { x with heard := true }) s) :=
  h.onStation a fun _ _ hok => { hok with heard := fun e => by cases e }

theorem RosterOk.judgeUpSlot (h : RosterOk c true s) (a : Nat) {cls : RxClass} (hcls : cls.Short) :
    RosterOk c true (judgeUpSlot a cls s) := by
  unfold Machine.judgeUpSlot
  split
  · split
    · exact h.congr rfl
    all_goals exact h
  · rename_i st hst
    split
    · exact (h.countStation a _).takeAnswer a _
    · exact (h.countStation a _).takeAnswer a _
    · exact (h.countStation a _).takeAnswer a _
    · exact (h.countStation a _).takeAnswer a _
    · exact (h.countStation a _).takeAnswer a _
    · rename_i seg
      unfold judgeGood
      split
      · exact (h.countStation a _).takeAnswer a _
      · split
        · exact (h.countStation a _).takeAnswer a _
        · split
          · exact (h.countStation a _).takeAnswer a _
          · refine (h.hear a).judgeCurrent ?_ (hcls seg rfl)
            exact (presenceOf_onStation (fun _ => by rfl) a a s).trans (presenceOf_some hst)

/-! ### ADMIT slots (R55, R67 to R71) -/

theorem strangerInv_insert (h : StrangerInv s) {a : Nat} {cls : Byte} (why : StrangerReason) (ha : 1 ≤ a ∧ a ≤ 30)
    (hcls : cls ≤ 0x0F) : StrangerInv { s with
      stt.strangers := s.stt.strangers.filter (fun x => x.address < a) ++
        { address := a, cls := cls, reason := why } :: s.stt.strangers.filter fun x => a < x.address } := by
  obtain ⟨hsorted, hranges⟩ := h
  have hlow : ∀ y ∈ (s.stt.strangers.filter fun x => x.address < a).map Stranger.address, y < a := by
    intro y hy
    obtain ⟨x, hx, rfl⟩ := List.mem_map.mp hy
    exact of_decide_eq_true (List.mem_filter.mp hx).2
  have hhigh : ∀ y ∈ (s.stt.strangers.filter fun x => a < x.address).map Stranger.address, a < y := by
    intro y hy
    obtain ⟨x, hx, rfl⟩ := List.mem_map.mp hy
    exact of_decide_eq_true (List.mem_filter.mp hx).2
  have hsub : ∀ p : Stranger → Bool, ((s.stt.strangers.filter p).map Stranger.address).Pairwise (· < ·) := fun p =>
    hsorted.sublist (List.filter_sublist.map _)
  refine ⟨?_, fun x hx => ?_⟩
  · simp only [List.map_append, List.map_cons, List.pairwise_append, List.pairwise_cons]
    refine ⟨hsub _, ⟨hhigh, hsub _⟩, fun y hy z hz => ?_⟩
    rcases List.mem_cons.mp hz with rfl | hz
    · exact hlow y hy
    · exact (hlow y hy).trans (hhigh z hz)
  · rcases List.mem_append.mp hx with hx | hx
    · exact hranges x (List.mem_of_mem_filter hx)
    · rcases List.mem_cons.mp hx with rfl | hx
      · exact ⟨ha, hcls⟩
      · exact hranges x (List.mem_of_mem_filter hx)

theorem RosterOk.addStranger (h : RosterOk c run s) {a : Nat} {cls : Byte} (why : StrangerReason) (ha : 1 ≤ a ∧ a ≤ 30)
    (hcls : cls ≤ 0x0F) : RosterOk c run (addStranger a cls why s) := by
  have ⟨hsorted, _⟩ := h.strangers
  rw [addStranger_eq a cls why hsorted]
  split
  · exact h
  · exact (h.withStrangers (strangerInv_insert h.strangers why ha hcls)).congr (roster_offer _ _)

/-- The record of an accepted joiner that was not PRESENT (R69, R70). -/
theorem RecordInv.joined {st : Station} (h : RecordInv c true st) (hp : st.presence ≠ .present) :
    RecordInv c true (joined st) :=
  h.of_not_present hp rfl rfl (Nat.zero_le _) (Nat.zero_le _) (fun _ => rfl) (fun e => by cases e) (fun _ e => by cases e)

/-- The record of a restarted station: its message rewound and its context gone (R71). -/
theorem recordInv_restarted (c : Settings) (st : Station) :
    RecordInv c true { rewindStation (joined st) with context := none } where
  good := Nat.zero_le _
  miss := Nat.zero_le _
  presence := fun _ => rfl
  heard := fun e => by cases e
  inFlight := fun r hr => by
    obtain ⟨x, -, rfl⟩ := Option.map_eq_some_iff.mp hr
    exact ⟨(fun e => by cases e), Nat.zero_le _⟩
  context := fun _ e => by cases e
  sequence := fun _ e => by cases e

theorem RosterOk.acceptJoin (h : RosterOk c true s) {a : Nat} (cls : Byte) {st : Station} (hst : station a s = some st) :
    RosterOk c true (acceptJoin a cls st s) := by
  have hset : ∀ {r : Station} {t : State}, RosterOk c true t → RecordInv c true r →
      RosterOk c true (Machine.setStation a (some r) t) := fun ht hr => ht.setStation a fun _ e => by cases e; exact hr
  have hok := h.stations a st hst
  have ht : RosterOk c true (setAdmission .accepted a s) := h.congr rfl
  cases hp : st.presence with
  | absent =>
    rw [acceptJoin_absent hst hp]
    exact (hset ht ((hok.joined (by rw [hp]; decide)).countIn _)).congr (roster_offer _ _)
  | acquiring =>
    rw [acceptJoin_acquiring hst hp]
    exact hset ht ((hok.joined (by rw [hp]; decide)).countIn _)
  | present =>
    rw [acceptJoin_present hst hp]
    refine RosterOk.congr (hset ?_ ?_) (roster_offer _ _)
    · split
      · exact ht.congr rfl
      · exact ht
    · refine RecordInv.countIn ?_ _
      have hrestarted := (recordInv_restarted c st).countIn .joinsAccepted
      exact { hrestarted with }

theorem joinClass_le (seg : Segment) : joinClass seg ≤ 0x0F := by
  simp only [joinClass, BitVec.le_def, BitVec.toNat_and]
  exact Nat.and_le_right

theorem RosterOk.resolveJoin (h : RosterOk c true s) {a : Nat} {cls : Byte} (ha : 1 ≤ a ∧ a ≤ 30) (hcls : cls ≤ 0x0F) :
    RosterOk c true (resolveJoin a cls s) := by
  unfold Machine.resolveJoin
  split
  · refine RosterOk.congr (RosterOk.addStranger ?_ .unknown ha hcls) (roster_countGlobal _ _)
    exact h.congr rfl
  · rename_i st hst
    split
    · exact h.acceptJoin cls hst
    · refine RosterOk.countStation (RosterOk.addStranger ?_ .cls ha hcls) a _
      exact h.congr rfl

theorem RosterOk.resolveAdmit (h : RosterOk c true s) (cls : RxClass) : RosterOk c true (resolveAdmit cls s) := by
  unfold Machine.resolveAdmit
  split
  · exact h.congr rfl
  · exact h.congr rfl
  · exact h.congr rfl
  · exact h.congr rfl
  · exact h.congr rfl
  · rename_i seg
    split
    · rename_i hv
      simp only [validJoin, Bool.and_eq_true] at hv
      obtain ⟨⟨⟨-, haddress⟩, -⟩, -⟩ := hv
      exact h.resolveJoin (of_decide_eq_true haddress) (joinClass_le seg)
    · exact h.congr rfl

end Reports

/-! ### The presence evaluation (R48 to R53) -/

/-- A state in which presence can be evaluated: the roster in order in a run, each queue its station's own, and a lock-in
count of at least 1. -/
structure Evaluable (c : Settings) (s : State) : Prop where
  roster : RosterOk c true s
  queued : ∀ a st, station a s = some st → Queued a st s
  lockIn : 1 ≤ c.lockIn

section Presence
variable {c : Settings} {s t : State} {a : Nat} {st r : Station}

theorem Evaluable.congr (h : Evaluable c s) (e : Machine.roster t = Machine.roster s) (hmpl : t.mpl = s.mpl) : Evaluable c t := by
  refine ⟨h.roster.congr e, fun b x hx => ?_, h.lockIn⟩
  have hsame : station b t = station b s := station_congr (congrArg (fun q : Roster => q.stt.records) e)
  obtain ⟨hrecord, hown, hhead⟩ := h.queued b x (hsame ▸ hx)
  exact ⟨hx, hmpl ▸ hown, hhead⟩

/-- The end of a queue leaves fresh in-flight records alone (R85). -/
theorem RecordInv.queueEnded (h : RecordInv c true { r with context := none, inFlight := none }) (kept : List Nat) :
    RecordInv c true { queueEndRecord kept (Machine.countIn .losses r) with context := none } := by
  have hfresh : RecordInv c true { withQueue kept r with context := none } := { h with
    inFlight := fun x hx => by
      obtain ⟨k, -, rfl⟩ := Option.map_eq_some_iff.mp hx
      exact ⟨(fun e => by cases e), Nat.zero_le _⟩ }
  have hcounted := hfresh.countIn .losses
  unfold queueEndRecord
  split
  · exact { hcounted with }
  · have hfailed := hcounted.countIn .messagesFailed
    exact { hfailed with }

/-- The record of a station changes, its queue and its in-flight record excepted. -/
theorem Evaluable.setStation (h : Evaluable c s) (hst : station a s = some st) (hr : RecordInv c true r)
    (hq : r.queue = st.queue) (hf : r.inFlight = st.inFlight) : Evaluable c (setStation a (some r) s) := by
  refine ⟨h.roster.setStation a (fun x e => by cases e; exact hr), fun b x hx => ?_, h.lockIn⟩
  by_cases hb : b = a
  · subst hb
    rw [station_setStation_same (station_isSome_range hst)] at hx
    cases hx
    exact (h.queued b st hst).setStation hq hf
  · have hother := hx
    rw [station_setStation_other hb] at hother
    obtain ⟨-, hown, hhead⟩ := h.queued b x hother
    exact ⟨hx, (setStation_mpl a (some r) s).symm ▸ hown, hhead⟩

theorem Evaluable.evaluateHeard (h : Evaluable c s) (hst : station a s = some st) :
    Evaluable c (evaluateHeard a st s) := by
  have hok := h.roster.stations a st hst
  have hgood : min (st.good + 1) s.rex.config.lockIn ≤ c.lockIn := by
    rw [h.roster.config]
    exact Nat.min_le_right _ _
  cases hp : st.presence with
  | absent =>
    rw [evaluateHeard_absent hst hp]
    refine h.setStation hst ?_ rfl rfl
    exact hok.of_not_present (by rw [hp]; decide) rfl rfl h.lockIn (Nat.zero_le _) (fun _ => rfl) (fun e => by cases e)
      (fun _ e => by cases e)
  | acquiring =>
    have hnew : ∀ p : Presence, RecordInv c true
        { countIn .cyclesHeard { st with miss := 0 } with good := min (st.good + 1) s.rex.config.lockIn, presence := p } :=
      fun p => hok.of_not_present (by rw [hp]; decide) rfl rfl hgood (Nat.zero_le _) (fun _ => rfl) (fun e => by cases e)
        hok.sequence
    rcases Nat.lt_or_eq_of_le (Nat.min_le_right (st.good + 1) s.rex.config.lockIn) with hlt | heq
    · rw [evaluateHeard_acquiring hst hp hlt]
      exact h.setStation hst (hnew st.presence) rfl rfl
    · rw [evaluateHeard_gain hst hp heq]
      have hgain := h.setStation hst ((hnew .present).countIn .gains) rfl rfl
      split
      · refine Evaluable.congr hgain (roster_offer _ _) ?_
        exact offer_mpl _ _
      · exact hgain.congr rfl rfl
  | present =>
    rw [evaluateHeard_present hst hp]
    exact h.setStation hst { hok with good := hgood, miss := Nat.zero_le _ } rfl rfl

theorem RecordInv.missed (h : RecordInv c true st) {miss : Nat} (hm : miss ≤ c.lockOut) :
    RecordInv c true (missedRecord miss st) :=
  { h with good := Nat.zero_le _, miss := hm }

/-- What a loss leaves of the records, the queues and the pool is in order (R50, R53). -/
theorem Evaluable.lose (h : Evaluable c s) (hst : station a s = some st) (hq : r.queue = st.queue)
    (hf : r.inFlight = st.inFlight)
    (hlost : RecordInv c true { r with context := none, inFlight := none }) :
    Evaluable c (lose a st (Machine.setStation a (some r) s)) := by
  have hs : Queued a r (Machine.setStation a (some r) s) := (h.queued a st hst).setStation hq hf
  have hhappens : HappensAt a (lossNotices a st) (lossCounts st) s (Machine.lose a st (Machine.setStation a (some r) s)) :=
    (happensAt_setStation a (some r) s).trans (happensAt_lose hs hq)
  have hstation := station_lose hs hq
  have hmessages := lose_messages hs hq
  rw [setStation_mpl] at hmessages
  refine ⟨h.roster.happensAt hhappens fun x hx => ?_, fun b x hx => ?_, h.lockIn⟩
  · cases hstation.symm.trans hx
    exact hlost.queueEnded (keptQueue st)
  · by_cases hb : b = a
    · subst hb
      cases hstation.symm.trans hx
      refine ⟨hx, ?_, ?_⟩
      · change OwnQueue b (queueEndRecord (keptQueue st) (countIn .losses r)).queue _
        rw [hmessages, queueEndRecord_queue]
        exact (h.queued b st hst).own.ended (keptQueue_sublist st)
      · change Option.map _ (queueEndRecord (keptQueue st) (countIn .losses r)).inFlight =
          (queueEndRecord (keptQueue st) (countIn .losses r)).queue.head?
        rw [queueEndRecord_queue, queueEndRecord_inFlight, Option.map_map]
        exact Option.map_id'
    · have hother := hx
      rw [hhappens.others b hb] at hother
      obtain ⟨-, hown, hhead⟩ := h.queued b x hother
      exact ⟨hx, hmessages ▸ hown.other hb, hhead⟩

theorem Evaluable.evaluateMissed (h : Evaluable c s) (hst : station a s = some st) :
    Evaluable c (evaluateMissed a st s) := by
  have hok := h.roster.stations a st hst
  have hmiss : min (st.miss + 1) s.rex.config.lockOut ≤ c.lockOut := by
    rw [h.roster.config]
    exact Nat.min_le_right _ _
  rcases Nat.lt_or_eq_of_le (Nat.min_le_right (st.miss + 1) s.rex.config.lockOut) with hlt | heq
  · rw [evaluateMissed_counts hst (.inl hlt)]
    exact h.setStation hst (hok.missed hmiss) rfl rfl
  · cases hp : st.presence with
    | absent =>
      rw [evaluateMissed_counts hst (.inr hp)]
      exact h.setStation hst (hok.missed hmiss) rfl rfl
    | acquiring =>
      rw [evaluateMissed_acquiring hst hp heq]
      refine h.setStation hst (RecordInv.countIn ?_ _) rfl rfl
      exact hok.of_not_present (by rw [hp]; decide) rfl rfl (Nat.zero_le _) hmiss (fun _ => rfl) (fun e => by cases e)
        hok.sequence
    | present =>
      rw [evaluateMissed_present hst hp heq]
      refine h.lose hst rfl rfl ?_
      have hlost := hok.missed (heq ▸ hmiss)
      exact { hlost with
        presence := fun _ => rfl
        inFlight := fun _ e => by cases e
        context := fun _ e => by cases e }

theorem Evaluable.evaluate (h : Evaluable c s) (b : Bank) (a : Nat) : Evaluable c (evaluate b a s) := by
  unfold Machine.evaluate
  split
  · exact h
  · rename_i st hst
    split
    · split
      · exact h.evaluateHeard hst
      · exact h.evaluateMissed hst
    · exact h

theorem Evaluable.evaluatePresence (h : Evaluable c s) : RosterOk c true (evaluatePresence s) := by
  have hall : Evaluable c ((List.range' 1 30).foldl (fun t a => Machine.evaluate s.sbk.active a t) s) :=
    foldl_keeps (fun _ a hu => hu.evaluate s.sbk.active a) _ h
  exact hall.roster.onStations fun _ hok => { hok with heard := fun e => by cases e }

end Presence

end Sys2Proof.Machine
end

section
/-! The records and the stranger set in order along every step (R14, R39, R46, R55, R56, R69, R85, R102, R107, R117, R121). -/

namespace Sys2Proof.Machine

-- One proof after another, not in parallel: the whole text compiles under a bound on memory.
set_option Elab.async false

/-! ### The invariant of a state -/

/-- StationInv and StrangerInv, in the terms of the state's own settings and engine state. -/
def RosterInv (s : State) : Prop := RosterOk s.rex.config (inRun s) s

theorem rosterInv_iff (s : State) : RosterInv s ↔ StationInv s ∧ StrangerInv s := by
  constructor
  · intro h
    exact ⟨⟨fun a st hst => (stationOk_iff st s).mpr (h.stations a st hst), h.broadcast⟩, h.strangers⟩
  · rintro ⟨⟨hstations, hbroadcast⟩, hstrangers⟩
    exact ⟨rfl, rfl, fun a st hst => (stationOk_iff st s).mp (hstations a st hst), hbroadcast, hstrangers⟩

theorem RosterOk.inv {c : Settings} {run : Bool} {s : State} (h : RosterOk c run s) : RosterInv s := by
  obtain ⟨hconfig, hrun, hstations, hbroadcast, hstrangers⟩ := h
  subst hconfig hrun
  exact ⟨rfl, rfl, hstations, hbroadcast, hstrangers⟩

theorem RosterInv.ok {s : State} {run : Bool} (h : RosterInv s) (hrun : inRun s = run) : RosterOk s.rex.config run s :=
  hrun ▸ h

theorem RosterInv.congr {s t : State} (h : RosterInv s) (e : roster t = roster s) : RosterInv t :=
  (RosterOk.congr h e).inv

/-- The engine moves on, and no record with it; a run goes on or begins. -/
theorem RosterInv.enter {s t : State} (h : RosterInv s) (hroster : { roster t with state := s.cye.state } = roster s)
    (hrun : inRun s = true → inRun t = true) : RosterInv t :=
  (RosterOk.enter h hroster rfl hrun).inv

/-! ### Requests (R40, R43, R56, R81, R98, R100, R173) -/

section Requests
variable {c : Settings} {run : Bool} {s : State}

theorem recordInv_newStation (c : Settings) (run : Bool) (cls : StationClass) (mode : NoticeMode) (hold : Bool) :
    RecordInv c run (newStation cls mode hold) where
  good := Nat.zero_le _
  miss := Nat.zero_le _
  presence := fun e => absurd rfl e
  heard := fun _ => rfl
  inFlight := fun _ e => by cases e
  context := fun _ e => by cases e
  sequence := fun _ e => by cases e

theorem strangerInv_filter (h : StrangerInv s) (p : Stranger → Bool) :
    StrangerInv { s with stt.strangers := s.stt.strangers.filter p } := by
  obtain ⟨hsorted, hranges⟩ := h
  exact ⟨hsorted.sublist (List.filter_sublist.map _), fun x hx => hranges x (List.mem_of_mem_filter hx)⟩

theorem RosterOk.removeStranger (h : RosterOk c run s) (a : Nat) : RosterOk c run (removeStranger a s) :=
  h.withStrangers (strangerInv_filter h.strangers _)

theorem RosterOk.takeEnroll (h : RosterOk c run s) (tag : Byte) (body : List Byte) :
    RosterOk c run (takeEnroll tag body s) := by
  simp only [Machine.takeEnroll]
  split
  · split
    · split
      · refine RosterOk.congr (RosterOk.removeStranger (h.setStation (numAt body 0) fun st e => ?_) (numAt body 0))
          (roster_reply _ _ _ _ _)
        cases e
        exact recordInv_newStation c run _ _ _
      · refine RosterOk.congr (RosterOk.removeStranger (h.onStation (numAt body 0) fun st _ hok => ?_) (numAt body 0))
          (roster_reply _ _ _ _ _)
        exact { hok with }
    · exact h.congr rfl
  · exact h.congr rfl

theorem RosterOk.takeRetire (h : RosterOk c run s) (tag : Byte) (body : List Byte) :
    RosterOk c run (takeRetire tag body s) := by
  simp only [Machine.takeRetire]
  split
  · split
    · exact h.congr rfl
    · rename_i st _
      have hgone := ((h.endQueue st.queue .retired true).discardContext (numAt body 0)).setStation (numAt body 0)
        (r := none) fun _ e => by cases e
      exact hgone.congr rfl
  · exact h.congr rfl

theorem RosterOk.takeStrangers (h : RosterOk c run s) (tag : Byte) : RosterOk c run (takeStrangers tag s) := by
  have hempty : RosterOk c run { s with stt.strangers := [] } :=
    h.withStrangers ⟨List.Pairwise.nil, fun _ hx => by cases hx⟩
  exact hempty.congr rfl

theorem RosterOk.takeSend (h : RosterOk c run s) (tag : Byte) (body : List Byte) :
    RosterOk c run (takeSend tag body s) := by
  unfold Machine.takeSend
  split
  · exact h.congr rfl
  · exact h.congr rfl
  · refine RosterOk.congr ?_ (roster_reply _ _ _ _ _)
    refine RosterOk.setQueue ?_ _ _
    exact h.congr rfl

theorem RosterOk.takeCancel (h : RosterOk c run s) (tag : Byte) (body : List Byte) :
    RosterOk c run (takeCancel tag body s) := by
  simp only [Machine.takeCancel]
  split
  · exact h.congr rfl
  · split
    · exact h.congr rfl
    · exact (h.endMessage _ _ _).congr rfl

theorem RosterOk.takeFlush (h : RosterOk c run s) (tag : Byte) (body : List Byte) :
    RosterOk c run (takeFlush tag body s) := by
  simp only [Machine.takeFlush]
  split
  · exact h.congr rfl
  · split
    · exact h.congr rfl
    · exact (h.endMessages _ _ _).congr rfl

theorem RosterOk.takeCounters (h : RosterOk c run s) (tag : Byte) (body : List Byte) :
    RosterOk c run (takeCounters tag body s) := by
  simp only [Machine.takeCounters]
  split
  · exact h.congr rfl
  · split
    · refine RosterOk.congr ?_ (roster_reply _ _ _ _ _)
      split
      · exact h.congr rfl
      · exact h
    · split
      · split
        · exact h.congr rfl
        · refine RosterOk.congr ?_ (roster_reply _ _ _ _ _)
          split
          · exact h.onStation _ fun _ _ hok => { hok with }
          · exact h
      · exact h.congr rfl

theorem RosterOk.takeSchedCommit (h : RosterOk c run s) (tag : Byte) : RosterOk c run (takeSchedCommit tag s) := by
  unfold Machine.takeSchedCommit
  split
  · exact h.congr rfl
  · split
    · exact h.congr rfl
    · split
      · exact h.congr rfl
      · split
        · exact h.swap.congr rfl
        · exact h.congr rfl

end Requests

/-! ### New settings (R51, R171) -/

/-- Outside a run no message has started, so that every in-flight record is fresh and within any limit. -/
theorem RosterOk.retries_zero {c : Settings} {s : State} (h : RosterOk c false s) (hq : QueueInv s) {a : Nat}
    {st : Station} {r : InFlight} (hst : station a s = some st) (hr : st.inFlight = some r) :
    r.started = false ∧ r.retries = 0 := by
  have hok := h.stations a st hst
  obtain ⟨-, -, -, -, hrecords, -⟩ := hq
  have hnot : r.started = false := by
    refine Bool.eq_false_of_not_eq_true fun e => ?_
    have hpresent := (hok.inFlight r hr).1 e
    exact absurd (hok.presence (by rw [hpresent]; decide)) (by decide)
  obtain ⟨hfresh, -⟩ := (hrecords a st hst).2 r hr
  rw [hfresh hnot]
  exact ⟨rfl, rfl⟩

theorem RosterOk.sends_zero {c : Settings} {s : State} (h : RosterOk c false s) (hq : QueueInv s)
    {r : BroadcastInFlight} (hr : s.dlv.inFlight = some r) : r.started = false ∧ r.sends = 0 := by
  obtain ⟨-, -, -, -, -, -, hbroadcast⟩ := hq
  have hnot : r.started = false := Bool.eq_false_of_not_eq_true fun e => absurd ((h.broadcast r hr).1 e) (by decide)
  obtain ⟨hfresh, -⟩ := hbroadcast r hr
  rw [hfresh hnot]
  exact ⟨rfl, rfl⟩

theorem roster_applySettings (c : Settings) (s : State) :
    roster (applySettings c s) = roster (onStations (limitCounts c) { s with rex.config := c }) := by
  unfold applySettings changeAttnMode
  split <;> rfl

/-- New settings outside a run: the counts come down to them (R51). -/
theorem RosterOk.applySettings {c : Settings} {s : State} (h : RosterOk c false s) (hq : QueueInv s) (new : Settings) :
    RosterOk new false (applySettings new s) := by
  refine RosterOk.congr (s := Machine.onStations (limitCounts new) { s with rex.config := new }) ?_
    (roster_applySettings new s)
  refine ⟨rfl, h.inRun, fun a st hst => ?_, fun r hr => ?_, h.strangers⟩
  · rw [station_onStations] at hst
    obtain ⟨old, hold, rfl⟩ := Option.map_eq_some_iff.mp hst
    have hok := h.stations a old hold
    exact {
      good := Nat.min_le_right _ _
      miss := Nat.min_le_right _ _
      presence := hok.presence
      heard := hok.heard
      inFlight := fun r hr => by
        obtain ⟨hstarted, hretries⟩ := h.retries_zero hq hold hr
        rw [hstarted, hretries]
        exact ⟨(fun e => by cases e), Nat.zero_le _⟩
      context := hok.context
      sequence := hok.sequence }
  · obtain ⟨hstarted, hsends⟩ := h.sends_zero hq hr
    rw [hstarted, hsends]
    exact ⟨(fun e => by cases e), Nat.zero_le _⟩

theorem inRun_stopped {s : State} (hs : s.cye.state = .stopped) : inRun s = false := by
  rw [inRun, hs]
  decide

theorem inRun_listening {s : State} (hs : s.cye.state = .listening) : inRun s = false := by
  rw [inRun, hs]
  decide

theorem rosterInv_takeConfigure (tag : Byte) (body : List Byte) {s : State} (h : RosterInv s) (hq : QueueInv s) :
    RosterInv (takeConfigure tag body s) := by
  unfold takeConfigure
  split
  · rename_i hs
    split
    · rename_i new _
      exact RosterInv.congr ((h.ok (inRun_stopped hs)).applySettings hq new).inv rfl
    · exact h.congr rfl
  · exact h.congr rfl

/-! ### The boundaries of the engine (R7 to R12, R14) -/

theorem rosterInv_takeStart (tag : Byte) {s : State} (h : RosterInv s) : RosterInv (takeStart tag s) := by
  unfold takeStart
  split
  · rename_i hs
    exact h.enter rfl fun e => absurd ((inRun_stopped hs).symm.trans e) (by decide)
  · exact h.congr rfl
  · exact h.congr rfl
  · exact h.congr rfl

theorem rosterInv_endListening {s : State} (h : RosterInv s) (hs : s.cye.state = .listening) :
    RosterInv (endListening s) :=
  h.enter rfl fun e => absurd ((inRun_listening hs).symm.trans e) (by decide)

theorem rosterInv_takeStop (tag : Byte) {s : State} (h : RosterInv s) : RosterInv (takeStop tag s) := by
  unfold takeStop
  split
  · exact h.congr rfl
  · rename_i hs
    exact RosterInv.congr (rosterInv_endListening h hs) ((roster_reply _ _ _ _ _).trans (roster_joinEither _ _ _))
  · exact h.enter rfl fun _ => rfl
  · exact h.congr rfl

theorem roster_beginCycle (cycle : Byte) (s : State) : roster (beginCycle cycle s) = roster s := rfl

theorem rosterInv_beginRun {s : State} (h : RosterInv s) : RosterInv (beginRun s) := by
  have hrun : RosterInv { s with cye.state := .running, cye.deadline := none, cye.start := none } :=
    h.enter rfl fun _ => rfl
  exact RosterInv.congr (RosterOk.swapPending hrun).inv ((roster_beginCycle _ _).trans (roster_joinEither _ _ _))

/-- At the end of a run every record is in order outside it (R14). -/
theorem rosterInv_of_runEnded {s t : State} (h : RosterInv s) (he : RunEnded s t)
    (hconfig : t.rex.config = s.rex.config) : RosterInv t := by
  obtain ⟨hstations, hstrangers, hdlv, -⟩ := he
  refine RosterOk.inv (c := s.rex.config) (run := Machine.inRun t) ⟨hconfig, rfl, fun a st hst => ?_, fun r hr => ?_, ?_⟩
  · rw [hstations a] at hst
    obtain ⟨old, hold, rfl⟩ := Option.map_eq_some_iff.mp hst
    have hok := h.stations a old hold
    refine ⟨?_, ?_, fun e => absurd rfl e, fun _ => rfl, fun r hr => ?_, (fun _ e => by cases e), hok.sequence⟩
    · dsimp only
      split
      · exact hok.good
      · exact Nat.zero_le _
    · dsimp only
      split
      · exact hok.miss
      · exact Nat.zero_le _
    · obtain ⟨x, -, rfl⟩ := Option.map_eq_some_iff.mp hr
      exact ⟨(fun e => by cases e), Nat.zero_le _⟩
  · rw [hdlv] at hr
    obtain ⟨x, -, rfl⟩ := Option.map_eq_some_iff.mp hr
    exact ⟨(fun e => by cases e), Nat.zero_le _⟩
  · unfold StrangerInv
    rw [hstrangers]
    exact h.strangers

theorem rosterInv_completeStop {s : State} (h : RosterInv s) : RosterInv (completeStop s) :=
  rosterInv_of_runEnded h (runEnded_completeStop s) (congrArg Rex.config (completeStop_rex s))

theorem rosterInv_abortSegment (seg : Segment) {s : State} (h : RosterInv s) : RosterInv (abortSegment seg s) := by
  simp only [abortSegment]
  split
  · refine rosterInv_completeStop (RosterInv.congr ?_ (roster_offer _ _))
    exact h.congr rfl
  · exact h.congr rfl

/-- The cycle end evaluates every station in a run (R7, R48). -/
theorem rosterInv_endCycle {s : State} (h : RosterInv s) (he : EngineInv s) (hq : QueueInv s)
    (hs : s.cye.state = .running) : RosterInv (endCycle s) := by
  obtain ⟨⟨-, -, hlockIn, -⟩, -⟩ := he
  have hrun : inRun s = true := by rw [inRun, hs]; decide
  have heval : Evaluable s.rex.config s := ⟨h.ok hrun, fun a st hst => hq.queued hst, hlockIn.1⟩
  exact RosterInv.congr (RosterOk.swapPending heval.evaluatePresence).inv
    ((roster_beginCycle _ _).trans (roster_joinEither _ _ _))

theorem rosterInv_takeReport {slot : RxSlot} {edges : List Edge} {upTo : Nat} {judge : RxClass → State → State}
    {s u : State} (h : RosterInv s) (he : EngineInv s)
    (hj : ∀ cls v, cls.Short → RosterOk s.rex.config true v → RosterOk s.rex.config true (judge cls v))
    (e : takeReport slot edges upTo judge s = some u) : RosterInv u := by
  rcases takeReport_cases slot edges upTo judge s with hn | ⟨phase, hl, ho, hr⟩
  · cases hn.symm.trans e
  · have hrun : inRun s = true := he.inRun_of_line (by rw [hl]; simp) (by rw [hl]; simp)
    rcases hr with ⟨r, hheard, hr⟩ | ⟨-, hr⟩
    · cases hr.symm.trans e
      exact (hj r.cls _ (hear_short ho r hheard) ((h.ok hrun).congr (roster_settle slot r s))).inv
    · cases hr.symm.trans e
      exact h.congr rfl

/-! ### The link, the transmitter and resets (R16 to R19, R156, R158, R163) -/

theorem roster_refuse (f : Frame) (made dropped : Option GlobalCounter) (s : State) :
    roster (refuse f made dropped s) = roster s := by
  unfold refuse
  split
  · cases made <;> rfl
  · cases dropped <;> rfl

theorem roster_acceptFrame (r : Request) (s : State) : roster (acceptFrame r s) = roster s := by
  unfold acceptFrame
  split
  · rfl
  · exact roster_refuse _ _ _ s

theorem roster_frameSent (src : TxSource) (s : State) : roster (frameSent src s) = roster s := by
  cases src with
  | startUp => rfl
  | reply =>
    simp only [frameSent, replySent]
    (repeat' split) <;> rfl
  | notice =>
    simp only [frameSent, noticeSent, attnOnLeave]
    (repeat' split) <;> rfl
  | overflow =>
    simp only [frameSent, overflowSent, attnOnLeave]
    (repeat' split) <;> rfl

theorem rosterInv_resetBlocks (hlk : Hlk) (startUp : Option Cause) (low : Bool) (s : State) :
    RosterInv (resetBlocks hlk startUp low s) := by
  refine ⟨rfl, rfl, fun a st hst => ?_, (fun _ e => by cases e), List.Pairwise.nil, fun x hx => by cases hx⟩
  have hnone : station a (resetBlocks hlk startUp low s) = none := station_reset a
  cases hnone.symm.trans hst

theorem rosterInv_busResetBlocks {s : State} (h : RosterInv s) : RosterInv (busResetBlocks s) := by
  refine RosterOk.inv (c := s.rex.config) (run := false) ⟨rfl, rfl, fun a st hst => ?_, (fun _ e => by cases e), h.strangers⟩
  have hmap : station a (busResetBlocks s) = (station a s).map busResetRecord := station_onStations a busResetRecord s
  rw [hmap] at hst
  obtain ⟨old, -, rfl⟩ := Option.map_eq_some_iff.mp hst
  exact ⟨Nat.zero_le _, Nat.zero_le _, fun e => absurd rfl e, fun _ => rfl, (fun _ e => by cases e),
    (fun _ e => by cases e), fun _ e => by cases e⟩

/-! ### Every command and every step -/

theorem rosterInv_perform {change : Option State} {s t : State} (h : RosterInv s)
    (hu : ∀ u, change = some u → RosterInv u) (e : perform change s = .next t) : RosterInv t :=
  perform_keeps (fun u hu => hu.congr (roster_arbitrate u)) h hu e

theorem rosterInv_performIf {p : Prop} [Decidable p] {v s t : State} (h : RosterInv s) (hv : p → RosterInv v)
    (e : perform (if p then some v else none) s = .next t) : RosterInv t := by
  refine rosterInv_perform h (fun u hu => ?_) e
  split at hu <;> cases hu
  rename_i hp
  exact hv hp

theorem rosterInv_request {kind tag : Byte} {body : List Byte} {owner : State → State} {s t : State} (h : RosterInv s)
    (ho : ∀ rest, RosterInv { s with rex.inbox := rest } → RosterInv (owner { s with rex.inbox := rest }))
    (e : request kind tag body owner s = .next t) : RosterInv t := by
  rcases request_cases e with rfl | ⟨rest, -, rfl | rfl⟩
  · exact h
  · exact (ho rest (h.congr rfl)).congr (roster_arbitrate _)
  · exact h.congr (roster_arbitrate _)

theorem rosterInv_takeEffect {scope : Scope} {effect : State → State} {s t : State} (h : RosterInv s)
    (hu : RosterInv (effect s)) (e : takeEffect scope effect s = .next t) : RosterInv t :=
  takeEffect_keeps (fun u hu => hu.congr (roster_arbitrate u)) h (fun _ => hu) e

/-- A request whose owner reaches no record. -/
theorem rosterInv_request_plain {kind tag : Byte} {body : List Byte} {owner : State → State} {s t : State}
    (h : RosterInv s) (ho : ∀ u, roster (owner u) = roster u) (e : request kind tag body owner s = .next t) :
    RosterInv t :=
  rosterInv_request h (fun _ hu => hu.congr (ho _)) e

theorem rosterInv_exec {i : Instr} {s t : State} (he : EngineInv s) (hq : QueueInv s) (h : RosterInv s)
    (e : exec i s = .next t) : RosterInv t := by
  cases i with
  | powerOn | pinReset =>
    cases e
    exact (rosterInv_resetBlocks ..).congr (roster_arbitrate _)
  | resetnLow n =>
    change execResetnLow s n = .next t at e
    unfold execResetnLow at e
    split at e <;> cases e
    · exact rosterInv_resetBlocks ..
    · exact h
  | identify | status | readConfig =>
    refine rosterInv_request_plain h (fun u => ?_) e
    rfl
  | configure tag body => exact rosterInv_request h (fun rest hu => rosterInv_takeConfigure tag body hu hq) e
  | counters tag body => exact rosterInv_request h (fun rest hu => (RosterOk.takeCounters hu tag body).inv) e
  | reset tag body =>
    refine rosterInv_request_plain h (fun u => ?_) e
    unfold takeReset
    split <;> rfl
  | unknownRequestKind kind tag body =>
    refine rosterInv_perform h (fun u hu => ?_) e
    split at hu
    · split at hu <;> cases hu
      exact h.congr rfl
    · cases hu
  | start tag body => exact rosterInv_request h (fun rest hu => rosterInv_takeStart tag hu) e
  | stop tag body => exact rosterInv_request h (fun rest hu => rosterInv_takeStop tag hu) e
  | schedEdit tag body =>
    refine rosterInv_request_plain h (fun u => ?_) e
    simp only [takeSchedEdit]
    (repeat' split) <;> rfl
  | schedRead tag body =>
    refine rosterInv_request_plain h (fun u => ?_) e
    simp only [takeSchedRead]
    split <;> rfl
  | schedCommit tag body => exact rosterInv_request h (fun rest hu => (RosterOk.takeSchedCommit hu tag).inv) e
  | enroll tag body => exact rosterInv_request h (fun rest hu => (RosterOk.takeEnroll hu tag body).inv) e
  | retire tag body => exact rosterInv_request h (fun rest hu => (RosterOk.takeRetire hu tag body).inv) e
  | stationQuery tag body =>
    refine rosterInv_request_plain h (fun u => ?_) e
    simp only [takeStationQuery]
    (repeat' split) <;> rfl
  | strangers tag body => exact rosterInv_request h (fun rest hu => (RosterOk.takeStrangers hu tag).inv) e
  | send tag body => exact rosterInv_request h (fun rest hu => (RosterOk.takeSend hu tag body).inv) e
  | cancel tag body => exact rosterInv_request h (fun rest hu => (RosterOk.takeCancel hu tag body).inv) e
  | flush tag body => exact rosterInv_request h (fun rest hu => (RosterOk.takeFlush hu tag body).inv) e
  | msgStatus tag body =>
    refine rosterInv_request_plain h (fun u => ?_) e
    unfold takeMsgStatus
    split <;> rfl
  | fetch tag body =>
    refine rosterInv_request_plain h (fun u => ?_) e
    simp only [takeFetch]
    (repeat' split) <;> rfl
  | grant tag body =>
    refine rosterInv_request_plain h (fun u => ?_) e
    simp only [takeGrant]
    split <;> rfl
  | goodFrame b =>
    refine rosterInv_perform h (fun u hu => ?_) e
    split at hu <;> cases hu
    exact h.congr (roster_acceptFrame _ _)
  | checkError b =>
    refine rosterInv_perform h (fun u hu => ?_) e
    split at hu <;> cases hu
    exact h.congr (roster_refuse _ _ _ _)
  | frameSent =>
    refine rosterInv_perform h (fun u hu => ?_) e
    obtain ⟨f, -, rfl⟩ := Option.map_eq_some_iff.mp hu
    exact h.congr (roster_frameSent _ _)
  | lengthError | huntByteDiscarded | gapTimeout | characterError | breakDetected | attnPulseExpiry | characterStartEdge
  | rxdReturnsHigh =>
    refine rosterInv_performIf h (fun _ => ?_) e
    exact h.congr rfl
  | frameByteTaken b =>
    refine rosterInv_perform h (fun u hu => ?_) e
    split at hu
    · obtain ⟨rx, -, rfl⟩ := Option.map_eq_some_iff.mp hu
      exact h.congr rfl
    · cases hu
  | fullReset => exact rosterInv_takeEffect h (rosterInv_resetBlocks ..) e
  | busReset =>
    change execBusReset s = .next t at e
    refine rosterInv_takeEffect h ?_ e
    exact (rosterInv_busResetBlocks h).congr (roster_joinEither _ _ _)
  | linkReset =>
    change execLinkReset s = .next t at e
    refine rosterInv_takeEffect h ?_ e
    exact h.congr rfl
  | listeningExpiry => exact rosterInv_performIf h (fun _ => rosterInv_beginRun h) e
  | carrier =>
    refine rosterInv_performIf h (fun hs => ?_) e
    exact (rosterInv_endListening h hs).congr (roster_joinEither _ _ _)
  | slotStart => exact rosterInv_performIf h (fun ⟨hrun, _⟩ => (h.ok hrun).startSlot.inv) e
  | transmissionCompleted =>
    refine rosterInv_perform h (fun u hu => ?_) e
    split at hu <;> cases hu
    exact h.congr rfl
  | echoMismatch cell second level =>
    refine rosterInv_perform h (fun u hu => ?_) e
    split at hu
    · split at hu <;> cases hu
      exact rosterInv_abortSegment _ h
    all_goals cases hu
  | cycleEnd => exact rosterInv_performIf h (fun ⟨hs, _⟩ => rosterInv_endCycle h he hq hs) e
  | stopCompletion => exact rosterInv_performIf h (fun _ => rosterInv_completeStop h) e
  | upSlotReport edges upTo =>
    exact rosterInv_perform h (fun u hu => rosterInv_takeReport h he (fun _ _ hs hv => hv.judgeUpSlot _ hs) hu) e
  | admitSlotReport edges upTo =>
    exact rosterInv_perform h (fun u hu => rosterInv_takeReport h he (fun cls _ _ hv => hv.resolveAdmit cls) hu) e

/-- Settles O59: each command leaves the records and the stranger set alone, changes one record within its bounds, or passes
through a boundary of the engine that puts every record in order. -/
theorem stepsKeepTheStations : Obligations.StepsKeepTheStations := by
  intro s t he hq hstations hstrangers e
  refine (rosterInv_iff t).mp ?_
  have h : RosterInv s := (rosterInv_iff s).mpr ⟨hstations, hstrangers⟩
  unfold step at e
  split at e
  · rename_i c rest _
    exact rosterInv_exec (s := { s with pending := rest }) he hq (h.congr rfl) e
  · cases e
    exact h.congr (by rw [tick_eq]; rfl)

end Sys2Proof.Machine
end

section
/-! An ADMIT slot that holds no valid JOIN: a part still open, a part already reported, and the receive classes that leave no
joining address (R64 to R66, R136, R142). -/

namespace Sys2Proof.Machine

-- One proof after another, not in parallel: the whole text compiles under a bound on memory.
set_option Elab.async false

/-! ### A part that settles no class -/

section Part
variable {slot : RxSlot} {edges : List Edge} {upTo : Nat} {judge : RxClass → State → State} {phase : RxPhase} {s : State}

/-- A part that stays open keeps what LIF has assembled, and no block judges it (R129, R142). -/
theorem takeReport_open (hl : s.lif.line = .receive slot phase) (ho : partOpen phase = true)
    (hn : partOpen (hear edges upTo phase) = true) :
    takeReport slot edges upTo judge s = some { s with lif.line := .receive slot (hear edges upTo phase) } := by
  simp only [takeReport, hl, ho, and_self, if_true]
  cases hh : hear edges upTo phase with
  | settled r =>
    rw [hh] at hn
    cases hn
  | wait _ | decode _ _ | late _ _ => rfl

/-- A part is reported once (R142; log 1). -/
theorem takeReport_reported (hl : s.lif.line = .receive slot phase) (ho : partOpen phase = false) :
    takeReport slot edges upTo judge s = none := by
  simp only [takeReport, hl, ho, Bool.false_eq_true, and_false, if_false]

end Part

theorem exec_admitSlotReport_open {edges : List Edge} {upTo : Nat} {part : RxPhase} {s : State} (hh : held s = false)
    (hl : s.lif.line = .receive .admission part) (ho : partOpen part = true) (hn : partOpen (hear edges upTo part) = true) :
    exec (.admitSlotReport edges upTo) s =
      .next (arbitrate { s with lif.line := .receive .admission (hear edges upTo part) }) := by
  rw [← perform_some hh, ← takeReport_open (judge := resolveAdmit) hl ho hn]
  rfl

theorem exec_admitSlotReport_reported {edges : List Edge} {upTo : Nat} {part : RxPhase} {s : State}
    (hl : s.lif.line = .receive .admission part) (ho : partOpen part = false) :
    exec (.admitSlotReport edges upTo) s = .next s := by
  rw [← perform_none s, ← takeReport_reported (edges := edges) (upTo := upTo) (judge := resolveAdmit) hl ho]
  rfl

/-! ### The classes without a valid JOIN (R65, R66) -/

theorem stationAddress_segment_iff (x : BitVec 5) : stationAddress x.toNat = true ↔ x ≠ 0 ∧ x ≠ 31 := by
  refine ⟨fun h => ⟨?_, ?_⟩, fun ⟨h0, h31⟩ => stationAddress_segment h0 h31⟩
  all_goals
    rintro rfl
    cases h

theorem validJoin_iff (seg : Segment) (s : State) : validJoin seg s = true ↔
    seg.kind = .join ∧ seg.address ≠ 0 ∧ seg.address ≠ 31 ∧ seg.payload.length = 2 ∧ seg.echo = s.cye.cycle := by
  simp only [validJoin, Bool.and_eq_true, decide_eq_true_eq, stationAddress_segment_iff, and_assoc]

/-- Two stations at once show as any of three classes, and ADM treats them alike (R65). -/
theorem resolveAdmit_collision {cls : RxClass} (s : State) (h : cls = .collided ∨ cls = .malformed ∨ cls = .crcBad) :
    resolveAdmit cls s = { countGlobal .admitCollisions s with adm := { result := .collided, echo := 0 } } := by
  obtain rfl | rfl | rfl := h <;> rfl

theorem resolveAdmit_invalid {seg : Segment} {s : State} (h : ¬(seg.kind = .join ∧ seg.address ≠ 0 ∧ seg.address ≠ 31 ∧
      seg.payload.length = 2 ∧ seg.echo = s.cye.cycle)) :
    resolveAdmit (.good seg) s = { countGlobal .admitInvalid s with adm := { result := .none, echo := 0 } } := by
  rw [← validJoin_iff] at h
  simp only [resolveAdmit, if_neg h]
  rfl

/-- Settles O27: a part that goes on or was reported before reaches no judgement; a class settled without a valid JOIN leaves
its result and its count. -/
theorem admitSlotsWithoutAJoin : Obligations.AdmitSlotsWithoutAJoin := by
  refine ⟨fun edges upTo part s hh hl => ⟨exec_admitSlotReport_open hh hl, exec_admitSlotReport_reported hl⟩, ?_⟩
  intro edges upTo part r s hh hl ho hr t
  rw [exec_admitSlotReport_settled hh hl ho hr]
  refine ⟨fun hcls => ?_, fun hcls => ?_, fun hcls => ?_, fun seg hcls hinvalid => ?_⟩
  · rw [hcls]
    rfl
  · rw [hcls]
    rfl
  · rw [resolveAdmit_collision _ hcls]
  · rw [hcls, resolveAdmit_invalid (s := partReported .admission r s) hinvalid]

end Sys2Proof.Machine
end

section
/-! The queues and the in-flight records of a state as one value: what QueueInv reads, the terms in which it is kept, and the
changes that touch an in-flight record alone (R80, R84 to R86, R96). -/

namespace Sys2Proof.Machine

-- One proof after another, not in parallel: the whole text compiles under a bound on memory.
set_option Elab.async false

/-! ### A message and an in-flight record in order (R79, R80, R85, R86) -/

/-- The ranges of a descriptor's fields (R79, R80, R81). -/
structure MessageForm (m : Message) : Prop where
  handle : 1 ≤ m.handle ∧ m.handle ≤ 65535
  dest : 1 ≤ m.dest ∧ m.dest ≤ 31
  bytes : 1 ≤ m.bytes.length ∧ m.bytes.length ≤ 64

/-- What RecordOk says of an in-flight record itself. -/
structure FlightOk (a : Nat) (ms : List Message) (r : InFlight) : Prop where
  fresh : r.started = false → r = freshInFlight r.handle
  sent : r.phase = .awaitingAck → r.seqSent.isSome
  busy : r.busy < 16
  index : ∀ m ∈ ms, m.handle = r.handle → m.dest = a → r.index < segmentCount m.bytes.length

/-- What BroadcastOk says of the broadcast in-flight record itself. -/
structure BroadcastFlightOk (ms : List Message) (r : BroadcastInFlight) : Prop where
  fresh : r.started = false → r = freshBroadcast r.handle
  index : ∀ m ∈ ms, m.handle = r.handle → m.dest = 31 → r.index < segmentCount m.bytes.length

/-- A record belongs to the head of its queue, and is in order. -/
structure HeadRecordOk {ρ : Type} (handleOf : ρ → Nat) (Ok : ρ → Prop) (queue : List Nat) (held : Option ρ) : Prop where
  head : held.map handleOf = queue.head?
  ok : ∀ r, held = some r → Ok r

theorem MessageForm.segmentCount_pos {m : Message} (h : MessageForm m) : 0 < segmentCount m.bytes.length := by
  obtain ⟨hlow, -⟩ := h.bytes
  rw [lt_segmentCount]
  omega

theorem flightOk_fresh (a : Nat) {ms : List Message} (hform : ∀ m ∈ ms, MessageForm m) (h : Nat) :
    FlightOk a ms (freshInFlight h) where
  fresh := fun _ => rfl
  sent := fun e => by cases e
  busy := Nat.succ_pos _
  index := fun m hm _ _ => (hform m hm).segmentCount_pos

theorem broadcastFlightOk_fresh {ms : List Message} (hform : ∀ m ∈ ms, MessageForm m) (h : Nat) :
    BroadcastFlightOk ms (freshBroadcast h) where
  fresh := fun _ => rfl
  index := fun m hm _ _ => (hform m hm).segmentCount_pos

section HeadRecord
variable {ρ : Type} {handleOf : ρ → Nat} {fresh : Nat → ρ} {Ok Ok' : ρ → Prop} {queue queue' : List Nat} {held : Option ρ}

/-- A held record stays with the message that is still first; one that has become first gets a fresh record (R85). -/
theorem headRecord_eq (hhead : held.map handleOf = queue.head?) : headRecord handleOf fresh queue' held =
    if queue'.head? = queue.head? then held else queue'.head?.map fresh := by
  rw [← hhead]
  cases queue' with
  | nil => cases held <;> simp [headRecord]
  | cons k rest =>
    cases held with
    | none => simp [headRecord]
    | some r =>
      have hcomm : some k = some (handleOf r) ↔ handleOf r = k := by rw [Option.some.injEq, eq_comm]
      simp only [headRecord, List.head?_cons, Option.map_some, hcomm]

/-- The record of a queue that has changed (R85). -/
theorem HeadRecordOk.requeued (h : HeadRecordOk handleOf Ok queue held) (hfresh : ∀ k, handleOf (fresh k) = k ∧ Ok' (fresh k))
    (hkeep : ∀ r, handleOf r ∈ queue → Ok r → Ok' r) : HeadRecordOk handleOf Ok' queue'
      (if queue'.head? = queue.head? then held else queue'.head?.map fresh) := by
  split
  · rename_i hsame
    refine ⟨h.head.trans hsame.symm, fun r hr => hkeep r ?_ (h.ok r hr)⟩
    have hhead := h.head
    rw [hr] at hhead
    exact List.mem_of_mem_head? hhead.symm
  · refine ⟨?_, fun r hr => ?_⟩
    · have hid : handleOf ∘ fresh = id := funext fun k => (hfresh k).1
      rw [Option.map_map, hid, Option.map_id_fun, id]
    · obtain ⟨k, -, rfl⟩ := Option.map_eq_some_iff.mp hr
      exact (hfresh k).2

theorem HeadRecordOk.map (h : HeadRecordOk handleOf Ok queue held) {g : ρ → ρ} (hhandle : ∀ r, handleOf (g r) = handleOf r)
    (hok : ∀ r, held = some r → Ok r → Ok' (g r)) : HeadRecordOk handleOf Ok' queue (held.map g) := by
  refine ⟨?_, fun r hr => ?_⟩
  · have hsame : handleOf ∘ g = handleOf := funext hhandle
    rw [Option.map_map, hsame, h.head]
  · obtain ⟨x, hx, rfl⟩ := Option.map_eq_some_iff.mp hr
    exact hok x hx (h.ok x hx)

theorem HeadRecordOk.rewound (h : HeadRecordOk handleOf Ok queue held) (hfresh : ∀ k, handleOf (fresh k) = k ∧ Ok (fresh k)) :
    HeadRecordOk handleOf Ok queue (held.map fun r => fresh (handleOf r)) :=
  h.map (fun _ => (hfresh _).1) fun _ _ _ => (hfresh _).2

end HeadRecord

/-! ### What QueueInv reads -/

/-- The messages, and for each destination its queue and its in-flight record. -/
structure Delivery where
  messages : List Message
  handleCounter : Nat
  queues : Nat → List Nat
  flights : Nat → Option InFlight
  broadcast : Option BroadcastInFlight

/-- The in-flight record of an address, where it has one. -/
def flightOf (a : Nat) (s : State) : Option InFlight := (station a s).bind Station.inFlight

/-- The queues and the in-flight records of a state. -/
def delivery (s : State) : Delivery :=
  { messages := s.mpl.messages, handleCounter := s.mpl.handleCounter, queues := fun d => queueOf d s,
    flights := fun a => flightOf a s, broadcast := s.dlv.inFlight }

/-- QueueInv, destination by destination. -/
structure DeliveryOk (x : Delivery) : Prop where
  counter : 1 ≤ x.handleCounter ∧ x.handleCounter ≤ 65535
  form : ∀ m ∈ x.messages, MessageForm m
  marked : ∀ m ∈ x.messages, (m.state = .inFlight ↔ (x.queues m.dest).head? = some m.handle)
  short : ∀ d, (x.queues d).length ≤ 8
  own : ∀ d, OwnQueue d (x.queues d) x.messages
  flights : ∀ a, a ≠ 31 → HeadRecordOk InFlight.handle (FlightOk a x.messages) (x.queues a) (x.flights a)
  broadcast : HeadRecordOk BroadcastInFlight.handle (BroadcastFlightOk x.messages) (x.queues 31) x.broadcast

theorem flightOf_station {a : Nat} {st : Station} {s : State} (h : station a s = some st) : flightOf a s = st.inFlight := by
  rw [flightOf, h]
  rfl

theorem flightOf_unenrolled {a : Nat} {s : State} (h : station a s = none) : flightOf a s = none := by
  rw [flightOf, h]
  rfl

theorem queueOf_unenrolled {d : Nat} {s : State} (hd : d ≠ 31) (h : station d s = none) : queueOf d s = [] := by
  rw [queueOf, if_neg hd, h]

theorem recordOk_iff (a : Nat) (st : Station) (s : State) :
    RecordOk a st s ↔ HeadRecordOk InFlight.handle (FlightOk a s.mpl.messages) st.queue st.inFlight :=
  ⟨fun ⟨hhead, hok⟩ => ⟨hhead, fun r hr => let ⟨h1, h2, h3, h4⟩ := hok r hr; ⟨h1, h2, h3, h4⟩⟩,
    fun ⟨hhead, hok⟩ => ⟨hhead, fun r hr => let ⟨h1, h2, h3, h4⟩ := hok r hr; ⟨h1, h2, h3, h4⟩⟩⟩

theorem broadcastOk_iff (s : State) : BroadcastOk s ↔
    HeadRecordOk BroadcastInFlight.handle (BroadcastFlightOk s.mpl.messages) s.dlv.queue s.dlv.inFlight :=
  ⟨fun ⟨hhead, hok⟩ => ⟨hhead, fun r hr => let ⟨h1, h2⟩ := hok r hr; ⟨h1, h2⟩⟩,
    fun ⟨hhead, hok⟩ => ⟨hhead, fun r hr => let ⟨h1, h2⟩ := hok r hr; ⟨h1, h2⟩⟩⟩

theorem QueueInv.deliveryOk {s : State} (h : QueueInv s) : DeliveryOk (delivery s) := by
  obtain ⟨hhandles, hcounter, hform, hqueues, hrecords, hbroadcast⟩ := h
  refine ⟨hcounter, fun m hm => ?_, fun m hm => ?_, fun d => (hqueues d).1, fun d => ?_, fun a ha => ?_,
    (broadcastOk_iff s).mp hbroadcast⟩
  · obtain ⟨h1, h2, h3, -⟩ := hform m hm
    exact ⟨h1, h2, h3⟩
  · obtain ⟨-, -, -, -, hmarked⟩ := hform m hm
    exact hmarked
  · obtain ⟨-, hnodup, hmem⟩ := hqueues d
    refine ⟨hhandles, hnodup, fun k => ⟨hmem k, ?_⟩⟩
    rintro ⟨m, hm, rfl, rfl⟩
    obtain ⟨-, -, -, hin, -⟩ := hform m hm
    exact hin
  · change HeadRecordOk _ _ (queueOf a s) (flightOf a s)
    cases hst : station a s with
    | none =>
      rw [queueOf_unenrolled ha hst, flightOf_unenrolled hst]
      exact ⟨rfl, fun _ e => by cases e⟩
    | some st =>
      rw [queueOf_station hst, flightOf_station hst]
      exact (recordOk_iff a st s).mp (hrecords a st hst)

theorem DeliveryOk.queueInv {s : State} (h : DeliveryOk (delivery s)) : QueueInv s := by
  refine ⟨(h.own 0).handles, h.counter, fun m hm => ?_, fun d => ?_, fun a st hst => ?_, (broadcastOk_iff s).mpr h.broadcast⟩
  · obtain ⟨h1, h2, h3⟩ := h.form m hm
    exact ⟨h1, h2, h3, ((h.own m.dest).mem_iff m.handle).mpr ⟨m, hm, rfl, rfl⟩, h.marked m hm⟩
  · exact ⟨h.short d, (h.own d).nodup, fun k => ((h.own d).mem_iff k).mp⟩
  · have hflight : HeadRecordOk InFlight.handle (FlightOk a s.mpl.messages) (queueOf a s) (flightOf a s) :=
      h.flights a (by have := station_isSome_range hst; omega)
    rw [queueOf_station hst, flightOf_station hst] at hflight
    exact (recordOk_iff a st s).mpr hflight

/-- QueueInv from its parts, with the messages named. -/
theorem queueInv_of_parts {ms : List Message} {s : State} (hmessages : s.mpl.messages = ms)
    (hcounter : 1 ≤ s.mpl.handleCounter ∧ s.mpl.handleCounter ≤ 65535) (hform : ∀ m ∈ ms, MessageForm m)
    (hmarked : ∀ m ∈ ms, (m.state = .inFlight ↔ (queueOf m.dest s).head? = some m.handle))
    (hshort : ∀ d, (queueOf d s).length ≤ 8) (hown : ∀ d, OwnQueue d (queueOf d s) ms)
    (hflights : ∀ a, a ≠ 31 → HeadRecordOk InFlight.handle (FlightOk a ms) (queueOf a s) (flightOf a s))
    (hbroadcast : HeadRecordOk BroadcastInFlight.handle (BroadcastFlightOk ms) s.dlv.queue s.dlv.inFlight) :
    QueueInv s := by
  subst hmessages
  exact DeliveryOk.queueInv ⟨hcounter, hform, hmarked, hshort, hown, hflights, hbroadcast⟩

theorem QueueInv.congr {s t : State} (h : QueueInv s) (e : delivery t = delivery s) : QueueInv t :=
  (e ▸ h.deliveryOk : DeliveryOk (delivery t)).queueInv

/-- Two messages of a state with one handle are the same (R79). -/
theorem QueueInv.message_eq {s : State} (h : QueueInv s) {m n : Message} (hm : m ∈ s.mpl.messages) (hn : n ∈ s.mpl.messages)
    (e : m.handle = n.handle) : m = n :=
  List.inj_on_of_nodup_map h.1 hm hn e

/-! ### Reading queues and in-flight records -/

theorem queueOf_eq (d : Nat) (s : State) :
    queueOf d s = if d = 31 then s.dlv.queue else ((station d s).map Station.queue).getD [] := by
  unfold queueOf
  refine if_congr Iff.rfl rfl ?_
  cases station d s <;> rfl

theorem flightOf_eq (a : Nat) (s : State) : flightOf a s = ((station a s).map Station.inFlight).join := by
  unfold flightOf
  cases station a s <;> rfl

theorem queueOf_congr {d : Nat} {s t : State} (hstation : (station d t).map Station.queue = (station d s).map Station.queue)
    (hdlv : t.dlv.queue = s.dlv.queue) : queueOf d t = queueOf d s := by
  rw [queueOf_eq, queueOf_eq, hstation, hdlv]

theorem flightOf_congr {a : Nat} {s t : State}
    (hstation : (station a t).map Station.inFlight = (station a s).map Station.inFlight) : flightOf a t = flightOf a s := by
  rw [flightOf_eq, flightOf_eq, hstation]

theorem delivery_congr {s t : State} (hmessages : t.mpl.messages = s.mpl.messages)
    (hcounter : t.mpl.handleCounter = s.mpl.handleCounter) (hqueue : ∀ d, queueOf d t = queueOf d s)
    (hflight : ∀ a, flightOf a t = flightOf a s) (hbroadcast : t.dlv.inFlight = s.dlv.inFlight) :
    delivery t = delivery s := by
  simp only [delivery, hmessages, hcounter, hqueue, hflight, hbroadcast]

/-- A change to a record that keeps a field of it keeps that field of every record. -/
theorem station_map_onStation {α : Type} {g : Station → α} {f : Station → Station} (hf : ∀ st, g (f st) = g st) (a b : Nat)
    (s : State) : (station b (onStation a f s)).map g = (station b s).map g := by
  by_cases hb : b = a
  · subst hb
    rw [station_onStation_same, Option.map_map]
    exact congrArg (fun k => Option.map k (station b s)) (funext hf)
  · rw [station_onStation_other f s hb]

theorem queueOf_onStation {f : Station → Station} (hf : ∀ st, (f st).queue = st.queue) (a d : Nat) (s : State) :
    queueOf d (onStation a f s) = queueOf d s :=
  queueOf_congr (station_map_onStation hf a d s) (congrArg Dlv.queue (onStation_dlv a f s))

theorem delivery_onStation {f : Station → Station} (hqueue : ∀ st, (f st).queue = st.queue)
    (hflight : ∀ st, (f st).inFlight = st.inFlight) (a : Nat) (s : State) : delivery (onStation a f s) = delivery s :=
  delivery_congr (by rw [onStation_mpl]) (by rw [onStation_mpl]) (fun d => queueOf_onStation hqueue a d s)
    (fun b => flightOf_congr (station_map_onStation hflight a b s)) (by rw [onStation_dlv])

theorem delivery_onStations {f : Station → Station} (hqueue : ∀ st, (f st).queue = st.queue)
    (hflight : ∀ st, (f st).inFlight = st.inFlight) (s : State) : delivery (onStations f s) = delivery s := by
  refine delivery_congr rfl rfl (fun d => queueOf_congr ?_ rfl) (fun a => flightOf_congr ?_) rfl
  · rw [station_onStations, Option.map_map]
    exact congrArg (fun k => Option.map k (station d s)) (funext hqueue)
  · rw [station_onStations, Option.map_map]
    exact congrArg (fun k => Option.map k (station a s)) (funext hflight)

@[simp] theorem delivery_countStation (a : Nat) (c : StationCounter) (s : State) :
    delivery (countStation a c s) = delivery s :=
  delivery_onStation (fun _ => by rfl) (fun _ => by rfl) a s

@[simp] theorem delivery_countGlobal (c : GlobalCounter) (s : State) : delivery (countGlobal c s) = delivery s := rfl
@[simp] theorem delivery_handOver (seg : Segment) (s : State) : delivery (handOver seg s) = delivery s := rfl

/-- What leaves the records, the pool and DLV's own state alone leaves the queues alone. -/
theorem delivery_of_blocks {s t : State} (hstt : t.stt = s.stt) (hmpl : t.mpl = s.mpl) (hdlv : t.dlv = s.dlv) :
    delivery t = delivery s := by
  have hsame : ∀ a, station a t = station a s := fun a => station_congr (congrArg Stt.records hstt)
  exact delivery_congr (by rw [hmpl]) (by rw [hmpl]) (fun d => queueOf_congr (by rw [hsame]) (by rw [hdlv]))
    (fun a => flightOf_congr (by rw [hsame])) (by rw [hdlv])

@[simp] theorem delivery_offer (n : Notice) (s : State) : delivery (offer n s) = delivery s :=
  delivery_of_blocks (offer_stt n s) (offer_mpl n s) (offer_dlv n s)

@[simp] theorem delivery_arbitrate (s : State) : delivery (arbitrate s) = delivery s :=
  delivery_of_blocks (arbitrate_stt s) (arbitrate_mpl s) (arbitrate_dlv s)

@[simp] theorem delivery_joinEither (a b : Option Frame) (s : State) : delivery (joinEither a b s) = delivery s :=
  delivery_of_blocks (joinEither_stt a b s) (joinEither_mpl a b s) (joinEither_dlv a b s)

@[simp] theorem delivery_discardContext (a : Nat) (s : State) : delivery (discardContext a s) = delivery s := by
  unfold discardContext
  split
  · split
    · exact delivery_onStation (fun _ => by rfl) (fun _ => by rfl) a s
    · rfl
  · rfl

/-! ### Changes of in-flight records alone (R88, R90, R92 to R94, R96) -/

/-- The queues and the messages stay, and each in-flight record is replaced by one in order for the same queue. -/
theorem QueueInv.reflight {s t : State} (h : QueueInv s) (hmessages : t.mpl.messages = s.mpl.messages)
    (hcounter : t.mpl.handleCounter = s.mpl.handleCounter) (hqueue : ∀ d, queueOf d t = queueOf d s)
    (hflights : ∀ a, a ≠ 31 → HeadRecordOk InFlight.handle (FlightOk a s.mpl.messages) (queueOf a s) (flightOf a t))
    (hbroadcast : HeadRecordOk BroadcastInFlight.handle (BroadcastFlightOk s.mpl.messages) s.dlv.queue t.dlv.inFlight) :
    QueueInv t := by
  have hs := h.deliveryOk
  have hdlv : t.dlv.queue = s.dlv.queue := hqueue 31
  refine queueInv_of_parts hmessages (hcounter ▸ hs.counter) hs.form ?_ ?_ ?_ ?_ (hdlv ▸ hbroadcast)
  all_goals simp only [hqueue]
  · exact hs.marked
  · exact hs.short
  · exact hs.own
  · exact hflights

theorem QueueInv.flight {s : State} (h : QueueInv s) {a : Nat} (ha : a ≠ 31) :
    HeadRecordOk InFlight.handle (FlightOk a s.mpl.messages) (queueOf a s) (flightOf a s) := h.deliveryOk.flights a ha

theorem QueueInv.own {s : State} (h : QueueInv s) (d : Nat) : OwnQueue d (queueOf d s) s.mpl.messages := h.deliveryOk.own d

theorem QueueInv.broadcast {s : State} (h : QueueInv s) :
    HeadRecordOk BroadcastInFlight.handle (BroadcastFlightOk s.mpl.messages) s.dlv.queue s.dlv.inFlight :=
  h.deliveryOk.broadcast

/-- The record of one address changes, its queue excepted. -/
theorem QueueInv.onStation {s : State} (h : QueueInv s) (a : Nat) {f : Station → Station}
    (hqueue : ∀ st, (f st).queue = st.queue) (hflight : ∀ st, station a s = some st →
      HeadRecordOk InFlight.handle (FlightOk a s.mpl.messages) st.queue st.inFlight →
      HeadRecordOk InFlight.handle (FlightOk a s.mpl.messages) st.queue (f st).inFlight) : QueueInv (onStation a f s) := by
  refine h.reflight (by rw [onStation_mpl]) (by rw [onStation_mpl]) (fun d => queueOf_onStation hqueue a d s)
    (fun b hb => ?_) (by rw [onStation_dlv]; exact h.broadcast)
  have hok := h.flight hb
  by_cases hba : b = a
  · subst hba
    cases hst : station b s with
    | none =>
      rw [onStation_none hst]
      exact hok
    | some st =>
      rw [queueOf_station hst, flightOf_station hst] at hok
      have hnew : station b (Machine.onStation b f s) = some (f st) := by rw [station_onStation_same, hst]; rfl
      rw [queueOf_station hst, flightOf_station hnew]
      exact hflight st hst hok
  · rw [flightOf, station_onStation_other f s hba]
    exact hok

/-- The broadcast in-flight record is replaced by one in order for the same queue. -/
theorem QueueInv.withBroadcast {s t : State} (h : QueueInv s) (hstt : t.stt = s.stt) (hmpl : t.mpl = s.mpl)
    (hqueue : t.dlv.queue = s.dlv.queue)
    (hok : HeadRecordOk BroadcastInFlight.handle (BroadcastFlightOk s.mpl.messages) s.dlv.queue t.dlv.inFlight) :
    QueueInv t := by
  have hsame : ∀ a, station a t = station a s := fun a => station_congr (congrArg Stt.records hstt)
  refine h.reflight (by rw [hmpl]) (by rw [hmpl]) (fun d => queueOf_congr (by rw [hsame]) hqueue) (fun a ha => ?_) hok
  rw [flightOf, hsame]
  exact h.flight ha

theorem QueueInv.form {s : State} (h : QueueInv s) : ∀ m ∈ s.mpl.messages, MessageForm m := h.deliveryOk.form

/-- A rewound in-flight record is in order (R96). -/
theorem QueueInv.rewound {s : State} (h : QueueInv s) {a : Nat} {queue : List Nat} {held : Option InFlight}
    (hok : HeadRecordOk InFlight.handle (FlightOk a s.mpl.messages) queue held) :
    HeadRecordOk InFlight.handle (FlightOk a s.mpl.messages) queue (held.map fun r => freshInFlight r.handle) :=
  hok.rewound fun k => ⟨rfl, flightOk_fresh a h.form k⟩

theorem QueueInv.rewoundBroadcast {s : State} (h : QueueInv s) :
    HeadRecordOk BroadcastInFlight.handle (BroadcastFlightOk s.mpl.messages) s.dlv.queue
      (s.dlv.inFlight.map fun r => freshBroadcast r.handle) :=
  h.broadcast.rewound fun k => ⟨rfl, broadcastFlightOk_fresh h.form k⟩

end Sys2Proof.Machine
end

section
/-! The end of a message in the terms of the claims, for a station and for broadcast, and the queues in order after a change
of one of them (R80, R84 to R86, R97, R103). -/

namespace Sys2Proof.Machine

-- One proof after another, not in parallel: the whole text compiles under a bound on memory.
set_option Elab.async false

/-! ### A queue that has changed (R80, R84 to R86) -/

/-- Marking changes the state of a destination's descriptors alone (R80). -/
theorem mem_markedFor {d : Nat} {queue : List Nat} {ms : List Message} {m : Message} (h : m ∈ markedFor d queue ms) :
    ∃ n ∈ ms, m.handle = n.handle ∧ m.dest = n.dest ∧ m.bytes = n.bytes ∧
      (m.dest = d → (m.state = .inFlight ↔ queue.head? = some m.handle)) ∧ (m.dest ≠ d → m = n) := by
  obtain ⟨n, hn, rfl⟩ := List.mem_map.mp h
  refine ⟨n, hn, ?_⟩
  by_cases hd : n.dest = d
  · by_cases hq : queue.head? = some n.handle <;> simp [hd, hq]
  · simp [hd]

theorem MessageForm.congr {m n : Message} (h : MessageForm n) (hhandle : m.handle = n.handle) (hdest : m.dest = n.dest)
    (hbytes : m.bytes = n.bytes) : MessageForm m :=
  ⟨hhandle ▸ h.handle, hdest ▸ h.dest, hbytes ▸ h.bytes⟩

theorem markedFor_form {d : Nat} {queue : List Nat} {ms : List Message} (h : ∀ m ∈ ms, MessageForm m) :
    ∀ m ∈ markedFor d queue ms, MessageForm m := by
  intro m hm
  obtain ⟨n, hn, hhandle, hdest, hbytes, -⟩ := mem_markedFor hm
  exact (h n hn).congr hhandle hdest hbytes

theorem OwnQueue.marked {b d : Nat} {queue queue' : List Nat} {ms : List Message} (h : OwnQueue b queue ms) :
    OwnQueue b queue (markedFor d queue' ms) :=
  ⟨by rw [markedFor_handles]; exact h.handles, h.nodup, fun k => by rw [exists_mem_markedFor]; exact h.mem_iff k⟩

/-- A queue is its destination's own as long as the messages of that destination stay. -/
theorem OwnQueue.of_same {b : Nat} {queue : List Nat} {ms ms' : List Message} (h : OwnQueue b queue ms)
    (hhandles : (ms'.map Message.handle).Nodup) (hsame : ∀ m, m.dest = b → (m ∈ ms' ↔ m ∈ ms)) : OwnQueue b queue ms' := by
  refine ⟨hhandles, h.nodup, fun k => (h.mem_iff k).trans (exists_congr fun m => ⟨?_, ?_⟩)⟩
  · rintro ⟨hm, hk, hb⟩
    exact ⟨(hsame m hb).mpr hm, hk, hb⟩
  · rintro ⟨hm, hk, hb⟩
    exact ⟨(hsame m hb).mp hm, hk, hb⟩

theorem FlightOk.of_messages {a : Nat} {ms ms' : List Message} {r : InFlight} (h : FlightOk a ms r)
    (hms : ∀ m ∈ ms', m.handle = r.handle → m.dest = a → ∃ n ∈ ms, n.handle = m.handle ∧ n.dest = m.dest ∧ n.bytes = m.bytes) :
    FlightOk a ms' r :=
  { h with
    index := fun m hm hh hd =>
      let ⟨n, hn, hnh, hnd, hnb⟩ := hms m hm hh hd
      hnb ▸ h.index n hn (hnh.trans hh) (hnd.trans hd) }

theorem BroadcastFlightOk.of_messages {ms ms' : List Message} {r : BroadcastInFlight} (h : BroadcastFlightOk ms r)
    (hms : ∀ m ∈ ms', m.handle = r.handle → m.dest = 31 → ∃ n ∈ ms, n.handle = m.handle ∧ n.dest = m.dest ∧ n.bytes = m.bytes) :
    BroadcastFlightOk ms' r :=
  { h with
    index := fun m hm hh hd =>
      let ⟨n, hn, hnh, hnd, hnb⟩ := hms m hm hh hd
      hnb ▸ h.index n hn (hnh.trans hh) (hnd.trans hd) }

section Now
variable {d : Nat} {queue : List Nat} {counted : Station → Station} {s t : State}

theorem QueueIsNow.queueOf_other (h : QueueIsNow d queue counted s t) {b : Nat} (hb : b ≠ d) :
    queueOf b t = queueOf b s := by
  obtain ⟨hothers, -, hstation, -⟩ := h
  rw [queueOf_eq, queueOf_eq, hothers b hb]
  split
  · rename_i hb31
    rw [(hstation (hb31 ▸ hb.symm)).1]
  · rfl

theorem QueueIsNow.flightOf_other (h : QueueIsNow d queue counted s t) {b : Nat} (hb : b ≠ d) :
    flightOf b t = flightOf b s := by
  rw [flightOf, h.1 b hb, flightOf]

theorem QueueIsNow.broadcast_other (h : QueueIsNow d queue counted s t) (hd : d ≠ 31) : t.dlv = s.dlv := (h.2.2.1 hd).1

theorem QueueIsNow.queueOf_same (h : QueueIsNow d queue counted s t) (hcounted : ∀ st, (counted st).queue = st.queue)
    (hd : d = 31 ∨ (station d s).isSome) : queueOf d t = queue := by
  obtain ⟨-, -, hstation, hbroadcast⟩ := h
  by_cases h31 : d = 31
  · rw [h31, queueOf_broadcast, hbroadcast h31]
  · obtain ⟨st, hst⟩ := Option.isSome_iff_exists.mp (hd.resolve_left h31)
    rw [queueOf_station ((hstation h31).2 st hst), hcounted]

theorem QueueIsNow.flightOf_same (h : QueueIsNow d queue counted s t) (hcounted : ∀ st, (counted st).inFlight = st.inFlight)
    (h31 : d ≠ 31) (hd : (station d s).isSome) : flightOf d t =
      if queue.head? = (queueOf d s).head? then flightOf d s else queue.head?.map freshInFlight := by
  obtain ⟨-, -, hstation, -⟩ := h
  obtain ⟨st, hst⟩ := Option.isSome_iff_exists.mp hd
  rw [flightOf_station ((hstation h31).2 st hst), hcounted, queueOf_station hst, flightOf_station hst]

/-- The queues are in order after a change of one of them: `ms` are the messages left, `queue` holds the handles of those of
its destination, and every message that had its place there was there before. -/
theorem queueInv_of_queueIsNow {ms : List Message} (h : QueueInv s) (hnow : QueueIsNow d queue counted s t)
    (hcounted : ∀ st, (counted st).queue = st.queue ∧ (counted st).inFlight = st.inFlight)
    (hd : d = 31 ∨ (station d s).isSome) (hmessages : t.mpl.messages = markedFor d queue ms)
    (hcounter : 1 ≤ t.mpl.handleCounter ∧ t.mpl.handleCounter ≤ 65535) (hform : ∀ m ∈ ms, MessageForm m)
    (hlength : queue.length ≤ 8) (hown : OwnQueue d queue ms)
    (hothers : ∀ m, m.dest ≠ d → (m ∈ ms ↔ m ∈ s.mpl.messages))
    (hold : ∀ m ∈ ms, m.handle ∈ queueOf d s → m ∈ s.mpl.messages) : QueueInv t := by
  have hs := h.deliveryOk
  have hsame : queueOf d t = queue := hnow.queueOf_same (fun st => (hcounted st).1) hd
  have hother : ∀ b, b ≠ d → queueOf b t = queueOf b s := fun b hb => hnow.queueOf_other hb
  have hmarkedForm : ∀ m ∈ markedFor d queue ms, MessageForm m := markedFor_form hform
  -- Whatever message an earlier record is measured against was there before.
  have hback : ∀ k b, (b = d → k ∈ queueOf d s) → ∀ m ∈ markedFor d queue ms, m.handle = k → m.dest = b →
      ∃ n ∈ s.mpl.messages, n.handle = m.handle ∧ n.dest = m.dest ∧ n.bytes = m.bytes := by
    intro k b hk m hm hh hb
    obtain ⟨n, hn, hhandle, hdest, hbytes, -⟩ := mem_markedFor hm
    refine ⟨n, ?_, hhandle.symm, hdest.symm, hbytes.symm⟩
    by_cases hbd : b = d
    · exact hold n hn (hhandle ▸ hh ▸ hk hbd)
    · exact (hothers n (hdest ▸ hb ▸ hbd)).mp hn
  refine queueInv_of_parts hmessages hcounter hmarkedForm (fun m hm => ?_) (fun b => ?_) (fun b => ?_) (fun a ha => ?_) ?_
  · obtain ⟨n, hn, -, -, -, hmarked, heq⟩ := mem_markedFor hm
    by_cases hmd : m.dest = d
    · rw [hmd, hsame]
      exact hmarked hmd
    · rw [hother m.dest hmd]
      exact hs.marked m ((hothers m hmd).mp (heq hmd ▸ hn))
  · by_cases hb : b = d
    · rw [hb, hsame]
      exact hlength
    · rw [hother b hb]
      exact hs.short b
  · by_cases hb : b = d
    · rw [hb, hsame]
      exact hown.marked
    · rw [hother b hb]
      exact ((hs.own b).of_same hown.handles fun m hm => hothers m (hm ▸ hb)).marked
  · by_cases had : a = d
    · subst had
      rw [hsame, hnow.flightOf_same (fun st => (hcounted st).2) ha (hd.resolve_left ha)]
      exact (h.flight ha).requeued (fun k => ⟨rfl, flightOk_fresh a hmarkedForm k⟩)
        fun r hr hok => hok.of_messages (hback r.handle a fun _ => hr)
    · rw [hother a had, hnow.flightOf_other had]
      have hok := h.flight ha
      exact ⟨hok.head, fun r hr => (hok.ok r hr).of_messages (hback r.handle a fun e => absurd e had)⟩
  · by_cases h31 : d = 31
    · subst h31
      rw [hnow.2.2.2 rfl]
      exact h.broadcast.requeued (fun k => ⟨rfl, broadcastFlightOk_fresh hmarkedForm k⟩)
        fun r hr hok => hok.of_messages (hback r.handle 31 fun _ => hr)
    · rw [hnow.broadcast_other h31]
      have hok := h.broadcast
      exact ⟨hok.head, fun r hr => (hok.ok r hr).of_messages (hback r.handle 31 fun e => absurd e.symm h31)⟩

end Now

/-! ### The end of a message (R97, R103) -/

theorem setQueue_frame (d : Nat) (queue : List Nat) (s : State) : setQueue d queue s =
    { s with stt.records := (setQueue d queue s).stt.records, mpl := (setQueue d queue s).mpl,
             dlv := (setQueue d queue s).dlv } := by
  unfold setQueue onStation setStation
  (repeat' split) <;> rfl

theorem countStationResult_frame (d : Nat) (r : Result) (s : State) : countStationResult d r s =
    { s with stt.records := (countStationResult d r s).stt.records } := by
  unfold countStationResult countStation onStation setStation
  (repeat' split) <;> rfl

theorem setQueue_strangers (d : Nat) (queue : List Nat) (s : State) :
    (setQueue d queue s).stt.strangers = s.stt.strangers := by rw [setQueue_frame]

/-- The queue that a change gives broadcast (R86). -/
theorem setQueue_broadcast (queue : List Nat) (s : State) : (setQueue 31 queue s).dlv =
    { s.dlv with queue := queue,
                 inFlight := headRecord BroadcastInFlight.handle freshBroadcast queue s.dlv.inFlight } := rfl

/-- A queue changes, in the terms of the claims; the pool may have changed before. -/
theorem setQueue_isNow {s t : State} (h : QueueInv s) (d : Nat) (queue : List Nat) (hstt : t.stt = s.stt)
    (hdlv : t.dlv = s.dlv) : QueueIsNow d queue id s (setQueue d queue t) := by
  have hsame : ∀ a, station a t = station a s := fun a => station_congr (congrArg Stt.records hstt)
  refine ⟨fun a ha => (station_setQueue_other queue t ha).trans (hsame a), (setQueue_strangers d queue t).trans ?_,
    fun hd => ⟨(setQueue_dlv queue t hd).trans hdlv, fun st hst => ?_⟩, ?_⟩
  · rw [hstt]
  · rw [station_setQueue_same queue t hd, hsame, hst, Option.map_some, id, headRecord_eq (h.inFlight_handle hst)]
  · rintro rfl
    rw [setQueue_broadcast, hdlv, headRecord_eq h.broadcast.head]

theorem QueueIsNow.congr {d : Nat} {queue : List Nat} {counted : Station → Station} {s t u : State}
    (h : QueueIsNow d queue counted s t) (hstt : u.stt = t.stt) (hdlv : u.dlv = t.dlv) : QueueIsNow d queue counted s u := by
  have hsame : ∀ a, station a u = station a t := fun a => station_congr (congrArg Stt.records hstt)
  unfold QueueIsNow
  simp only [hsame, hstt, hdlv]
  exact h

/-- A station's own count of a result leaves its queue as it is now (R97). -/
theorem QueueIsNow.countStationResult {d : Nat} {queue : List Nat} {s t : State} (h : QueueIsNow d queue id s t)
    (r : Result) : QueueIsNow d queue (countResultIn r) s (countStationResult d r t) := by
  obtain ⟨hothers, hstrangers, hstation, hbroadcast⟩ := h
  refine ⟨fun a ha => ?_, ?_, fun hd => ⟨?_, fun st hst => ?_⟩, fun hd => ?_⟩
  · exact ((happensAt_countStationResult d r t).others a ha).trans (hothers a ha)
  · rw [countStationResult_frame]
    exact hstrangers
  · rw [countStationResult_dlv]
    exact (hstation hd).1
  · rw [station_countStationResult, (hstation hd).2 st hst]
    rfl
  · rw [countStationResult_dlv]
    exact hbroadcast hd

/-- A message's record leaves the pool, and its buffer returns (R97). -/
def withdrawn (h : Nat) (s : State) : State :=
  returnDown { s with mpl.messages := s.mpl.messages.eraseP fun m => m.handle == h }

/-- The end of a message: its queue, the pool, the counts and the notice, one after another (R97). -/
theorem endMessage_eq {h : Nat} {m : Message} {s : State} (hm : message h s = some m) (r : Result) (w : Reason) :
    endMessage h r w s = offer (.outcome h m.dest r w) (countStationResult m.dest r (countGlobal (resultCounter r)
      (withdrawn h (setQueue m.dest ((queueOf m.dest s).erase h) s)))) := by
  simp only [endMessage, hm]
  rfl

theorem endMessage_unknown {h : Nat} {s : State} (hm : message h s = none) (r : Result) (w : Reason) :
    endMessage h r w s = s := by simp only [endMessage, hm]

theorem endMessage_frame (h : Nat) (r : Result) (w : Reason) (s : State) : endMessage h r w s =
    { s with stt.records := (endMessage h r w s).stt.records, mpl := (endMessage h r w s).mpl,
             dlv := (endMessage h r w s).dlv, counters := (endMessage h r w s).counters,
             ntq := (endMessage h r w s).ntq } := by
  cases hm : message h s with
  | none =>
    rw [endMessage_unknown hm]
  | some m =>
    rw [endMessage_eq hm, offer_frame, countStationResult_frame, setQueue_frame]
    rfl

/-- What the end of a message offers and counts rests on the notice queue, the settings and the counters alone (R97). -/
theorem endMessage_notice {h : Nat} {m : Message} {s : State} (hm : message h s = some m) (r : Result) (w : Reason) :
    (endMessage h r w s).ntq = (offer (.outcome h m.dest r w) s).ntq ∧
    (endMessage h r w s).counters = (offer (.outcome h m.dest r w) (countGlobal (resultCounter r) s)).counters := by
  rw [endMessage_eq hm]
  refine ⟨offer_ntq_congr _ ?_ ?_, offer_counters_congr _ ?_ ?_⟩
  · simp [withdrawn]
  · simp [withdrawn]
  · simp [withdrawn]
  · rw [countStationResult_counters]
    simp only [countGlobal, withdrawn, returnDown_counters, setQueue_counters]

/-- What is left of a queue once a handle of it has gone. -/
def queueWithout (h : Nat) (queue : List Nat) : List Nat := queue.filter fun k => k ≠ h

theorem erase_eq_queueWithout {queue : List Nat} (hn : queue.Nodup) (h : Nat) : queue.erase h = queueWithout h queue := by
  rw [hn.erase_eq_filter, queueWithout]
  exact List.filter_congr fun k _ => by rw [bne, beq_eq_decide, decide_not]

theorem QueueInv.erase_eq {s : State} (hi : QueueInv s) (d h : Nat) :
    (queueOf d s).erase h = queueWithout h (queueOf d s) :=
  erase_eq_queueWithout (hi.own d).nodup h

theorem endMessage_isNow {h : Nat} {m : Message} {s : State} (hi : QueueInv s) (hm : message h s = some m) (r : Result)
    (w : Reason) : QueueIsNow m.dest (queueWithout h (queueOf m.dest s)) (countResultIn r) s (endMessage h r w s) := by
  have hq := setQueue_isNow (t := s) hi m.dest (queueWithout h (queueOf m.dest s)) rfl rfl
  have hw : QueueIsNow m.dest (queueWithout h (queueOf m.dest s)) id s
      (countGlobal (resultCounter r) (withdrawn h (setQueue m.dest (queueWithout h (queueOf m.dest s)) s))) :=
    hq.congr rfl rfl
  rw [endMessage_eq hm, hi.erase_eq]
  exact (hw.countStationResult r).congr (offer_stt _ _) (offer_dlv _ _)

theorem endMessage_pool {h : Nat} {m : Message} {s : State} (hi : QueueInv s) (hm : message h s = some m) (r : Result)
    (w : Reason) : (endMessage h r w s).mpl = { s.mpl with
      free := s.mpl.free + 1, down := s.mpl.down - 1,
      messages := markedFor m.dest (queueWithout h (queueOf m.dest s)) (s.mpl.messages.filter fun x => x.handle ≠ h) } := by
  have hmarked : ∀ queue, markMessages m.dest (List.head? queue) s.mpl.messages =
      markedFor m.dest queue s.mpl.messages := fun _ => rfl
  rw [endMessage_mpl hm, hi.erase_eq, hmarked, eraseP_handle (by rw [markedFor_handles]; exact (hi.own 0).handles),
    markedFor_filter (fun _ _ => rfl)]

/-- Settles O31: the frame, the queue with its in-flight record, and the pool, by one lemma each. -/
theorem aMessageEndsWhole : Obligations.AMessageEndsWhole := by
  intro m r why s hi hmem queue counter counted notice v
  have hm : message m.handle s = some m := message_of_mem hi.1 hmem
  have hcounted : counted = countResultIn r := by cases r <;> rfl
  have hcounter : counter = resultCounter r := by cases r <;> rfl
  obtain ⟨hntq, hcounters⟩ := endMessage_notice hm r why
  refine ⟨?_, ?_, endMessage_pool hi hm r why⟩
  · rw [hcounter, ← hntq, ← hcounters]
    exact endMessage_frame m.handle r why s
  · rw [hcounted]
    exact endMessage_isNow hi hm r why

/-! ### The queues stay in order when messages end -/

/-- A message stands in the queue of its destination, which is broadcast or enrolled (R84). -/
theorem QueueInv.dest_enrolled {s : State} (hi : QueueInv s) {m : Message} (hm : m ∈ s.mpl.messages) :
    m.dest = 31 ∨ (station m.dest s).isSome := by
  have hmem : m.handle ∈ queueOf m.dest s := ((hi.own m.dest).mem_iff m.handle).mpr ⟨m, hm, rfl, rfl⟩
  refine or_iff_not_imp_left.mpr fun h31 => Option.isSome_iff_ne_none.mpr fun hnone => ?_
  rw [queueOf_unenrolled h31 hnone] at hmem
  cases hmem

theorem OwnQueue.without {d h : Nat} {queue : List Nat} {ms : List Message} (ho : OwnQueue d queue ms) :
    OwnQueue d (queueWithout h queue) (ms.filter fun x => x.handle ≠ h) := by
  refine ⟨ho.handles.sublist (List.filter_sublist.map _), ho.nodup.sublist List.filter_sublist, fun k => ?_⟩
  simp only [queueWithout, List.mem_filter, ho.mem_iff, decide_eq_true_eq]
  constructor
  · rintro ⟨⟨m, hm, rfl, hd⟩, hk⟩
    exact ⟨m, ⟨hm, hk⟩, rfl, hd⟩
  · rintro ⟨m, ⟨hm, hk⟩, rfl, hd⟩
    exact ⟨⟨m, hm, rfl, hd⟩, hk⟩

theorem QueueInv.endMessage {s : State} (hi : QueueInv s) (h : Nat) (r : Result) (w : Reason) :
    QueueInv (endMessage h r w s) := by
  cases hm : message h s with
  | none =>
    rw [endMessage_unknown hm]
    exact hi
  | some m =>
    obtain ⟨hmem, hh⟩ := message_some hm
    have hpool := endMessage_pool hi hm r w
    have hs := hi.deliveryOk
    refine queueInv_of_queueIsNow hi (endMessage_isNow hi hm r w) (fun st => by cases r <;> exact ⟨rfl, rfl⟩)
      (hi.dest_enrolled hmem) (congrArg Mpl.messages hpool) ?_ (fun x hx => hi.form x (List.mem_of_mem_filter hx)) ?_
      (hs.own m.dest).without (fun x hx => ?_) (fun x hx _ => List.mem_of_mem_filter hx)
    · rw [hpool]
      exact hs.counter
    · exact (List.filter_sublist.length_le).trans (hs.short m.dest)
    · rw [List.mem_filter, decide_eq_true_eq]
      refine and_iff_left_of_imp fun hxm e => hx ?_
      rw [hi.message_eq hxm hmem (e.trans hh.symm)]

theorem QueueInv.endMessages {s : State} (hi : QueueInv s) (hs : List Nat) (r : Result) (w : Reason) :
    QueueInv (endMessages hs r w s) :=
  foldl_keeps (fun _ h hu => hu.endMessage h r w) hs hi

theorem QueueInv.endQueue {s : State} (hi : QueueInv s) (queue : List Nat) (w : Reason) (behind : Bool) :
    QueueInv (endQueue queue w behind s) := by
  unfold Machine.endQueue
  split
  · exact hi
  · dsimp only
    split
    · exact (hi.endMessage _ _ _).endMessages _ _ _
    · exact hi.endMessage _ _ _

end Sys2Proof.Machine
end

section
/-! What goes out in a DOWN slot and what an answer does to it: the segments of a message, the slots of a station and of
broadcast, and the judgement of an outstanding segment (R87 to R94, R114, R133). -/

namespace Sys2Proof.Machine

-- One proof after another, not in parallel: the whole text compiles under a bound on memory.
set_option Elab.async false

/-! ### Segments (R88) -/

/-- The first `n` segments make up the first `8 n` bytes. -/
theorem flatMap_segmentBytes (bytes : List Byte) (n : Nat) :
    (List.range n).flatMap (segmentBytes bytes) = bytes.take (8 * n) := by
  induction n with
  | zero => rfl
  | succ n ih =>
    rw [List.range_succ, List.flatMap_append, ih, List.flatMap_singleton, segmentBytes, Nat.mul_succ, List.take_add]

/-- The count of segments is the length in eights, rounded up. -/
theorem segmentCount_bounds {n : Nat} (h : n ≠ 0) : 8 * (segmentCount n - 1) < n ∧ n ≤ 8 * segmentCount n := by
  unfold segmentCount
  omega

/-- Settles O34: by induction on the number of segments put together, and the length of each. -/
theorem theSegmentsMakeUpTheMessage : Obligations.TheSegmentsMakeUpTheMessage := by
  intro bytes hne
  obtain ⟨hlow, hhigh⟩ := segmentCount_bounds (mt List.length_eq_zero_iff.mp hne)
  refine ⟨?_, hlow, hhigh, fun i _ => ⟨fun hi => ?_, fun hi => ?_⟩⟩
  · rw [flatMap_segmentBytes, List.take_of_length_le hhigh]
  · rw [segmentBytes_length]
    omega
  · rw [segmentBytes_length]
    omega

/-! ### A slot start dispatches a DOWN entry (R6) -/

/-- The message a handle names, as the claims look it up. -/
theorem find_eq_message (h : Nat) (s : State) : s.mpl.messages.find? (fun m => m.handle = h) = message h s := rfl

theorem exec_slotStart_down {a : Nat} {s : State} (h : SlotCanStart s)
    (he : entryAt s.sbk.active s.cye.slot = { kind := .down, owner := a }) :
    exec .slotStart s = .next (arbitrate (downSlot a { s with cye.slot := s.cye.slot + 1 })) := by
  obtain ⟨hh, hrun, hfree, hslot⟩ := h
  change perform (if _ then _ else _) s = _
  rw [if_pos ⟨hrun, hfree, hslot⟩, perform_some hh]
  simp only [startSlot, he]

/-! ### DOWN slots of a station (R87 to R89, R114) -/

section StationSlot
variable {a : Nat} {st : Station} {r : InFlight} {m : Message} {s : State}

theorem stationDownSlot_unenrolled (h : station a s = none) : stationDownSlot a s = { s with lif.line := .idle } := by
  simp only [stationDownSlot, h]

theorem stationDownSlot_empty (h : station a s = some st)
    (hno : st.presence ≠ .present ∨ st.inFlight = none ∨ ∃ r, st.inFlight = some r ∧ r.phase = .awaitingAck) :
    stationDownSlot a s = handOver (emptySegment a st s) s := by
  simp only [stationDownSlot, h]
  by_cases hp : st.presence = .present
  · rcases hno with hne | hnone | ⟨r, hr, hphase⟩
    · exact absurd hp hne
    · simp only [hp, hnone, if_true]
    · simp only [hp, hr, hphase, if_true, reduceCtorEq, if_false]
  · rw [if_neg hp]

theorem stationDownSlot_data (h : station a s = some st) (hp : st.presence = .present) (hr : st.inFlight = some r)
    (hphase : r.phase = .ready) (hm : message r.handle s = some m) : stationDownSlot a s = sendData a st r m s := by
  simp only [stationDownSlot, h, hp, hr, hphase, hm, if_true]

/-- A first sending takes the downlink next sequence (R88). -/
theorem sendData_first (h : station a s = some st) (hq : r.seqSent = none) : sendData a st r m s =
    handOver (dataSegment a st m r.index st.downNext s) (setStation a (some (countIn .dataSegmentsSent
      { st with downNext := st.downNext + 1,
                inFlight := some { r with seqSent := some st.downNext, started := true, phase := .awaitingAck } })) s) := by
  simp only [sendData, hq, Option.getD_none, onStation_some h]

/-- A resend keeps the sequence already sent (R88). -/
theorem sendData_again {q : Seq} (h : station a s = some st) (hq : r.seqSent = some q) : sendData a st r m s =
    handOver (dataSegment a st m r.index q s) (setStation a (some (countIn .segmentsResent
      { st with inFlight := some { r with seqSent := some q, started := true, phase := .awaitingAck } })) s) := by
  simp only [sendData, hq, Option.getD_some, onStation_some h]

end StationSlot

/-- Settles O35: the slot by the record, its presence and its in-flight message; DATA by whether it was sent before. -/
theorem stationDownSlots : Obligations.StationDownSlots := by
  intro a s hslot hentry ha t segment
  have hdown : exec .slotStart s = .next (arbitrate (stationDownSlot a t)) := by
    rw [exec_slotStart_down hslot hentry, downSlot, if_neg (by simp only [Config.broadcast]; omega)]
  rw [hdown]
  refine ⟨fun hst => ?_, fun st hst hno => ?_, fun st r m hst hp hr hphase hm => ?_⟩
  · rw [stationDownSlot_unenrolled (s := t) hst]
  · rw [stationDownSlot_empty (s := t) hst hno]
    rfl
  · intro data sent
    rw [find_eq_message] at hm
    rw [stationDownSlot_data (s := t) hst hp hr hphase hm]
    refine ⟨fun hq => ?_, fun q hq => ?_⟩
    · rw [sendData_first (s := t) hst hq]
      rfl
    · rw [sendData_again (s := t) hst hq]
      rfl

/-! ### DOWN slots of broadcast (R90) -/

/-- A broadcast send: the segment handed over, the sequence taken, the send counted, and the record as it is then (R90). -/
def broadcastSent (r : BroadcastInFlight) (m : Message) (record : BroadcastInFlight) (s : State) : State :=
  countGlobal .broadcastSends (countGlobal .transmissionsBegun
    { s with lif.line := .send (broadcastSegment m r.index (r.seqSent.getD s.dlv.next) s) .lead,
             dlv.next := if r.seqSent = none then s.dlv.next + 1 else s.dlv.next, dlv.inFlight := some record })

theorem afterBroadcastSend_handle (repeats : Nat) (q : Seq) (r : BroadcastInFlight) :
    (afterBroadcastSend repeats q r).handle = r.handle := by
  unfold afterBroadcastSend
  split <;> rfl

theorem broadcastDownSlot_silent {s : State} (h : s.dlv.inFlight = none) :
    broadcastDownSlot s = { s with lif.line := .idle } := by
  simp only [broadcastDownSlot, h]

theorem broadcastDownSlot_send {r : BroadcastInFlight} {m : Message} {s : State} (hr : s.dlv.inFlight = some r)
    (hm : message r.handle s = some m) : broadcastDownSlot s =
      let u := broadcastSent r m (afterBroadcastSend s.rex.config.repeats (r.seqSent.getD s.dlv.next) r) s
      if r.sends = s.rex.config.repeats ∧ r.index + 1 = segmentCount m.bytes.length then
        endMessage r.handle .delivered .none u
      else u := by
  simp only [broadcastDownSlot, hr, hm, Option.isNone_iff_eq_none]
  rfl

/-- Settles O36: the record after the send by whether the repeats are used up, and the end after the last segment. -/
theorem broadcastDownSlots : Obligations.BroadcastDownSlots := by
  intro s hslot hentry t
  have hdown : exec .slotStart s = .next (arbitrate (broadcastDownSlot t)) := exec_slotStart_down hslot hentry
  rw [hdown]
  refine ⟨fun hnone => ?_, fun r m hr hm => ?_⟩
  · rw [broadcastDownSlot_silent (s := t) hnone]
  · intro q sent
    have hsent : ∀ record, broadcastSent r m record t = sent record := fun _ => rfl
    rw [find_eq_message] at hm
    rw [broadcastDownSlot_send (s := t) hr hm, hsent]
    refine ⟨fun hmore => ?_, fun hlast hnext => ?_, fun hlast hend => ?_⟩
    · have hnot : ¬ r.sends + 1 = s.rex.config.repeats + 1 := by omega
      simp only [t, hmore, false_and, if_false, afterBroadcastSend, hnot]
      rfl
    · simp only [t, hlast, hnext, and_false, if_false, afterBroadcastSend, if_true]
    · exact ⟨_, afterBroadcastSend_handle t.rex.config.repeats q r, by rw [if_pos ⟨hlast, hend⟩]⟩

/-! ### An outstanding segment (R92 to R94) -/

/-- The answer acknowledges the segment sent (R92). -/
theorem acknowledges_iff (x : Answer) (sent : Option Seq) :
    acknowledges x sent = true ↔ x.ackValid = true ∧ sent = some x.ackSeq := by
  simp only [acknowledges, Bool.and_eq_true, decide_eq_true_eq]

theorem awaiting_none {a : Nat} {s : State}
    (h : ∀ st r, station a s = some st → st.inFlight = some r → r.phase = .ready) : awaiting a s = none := by
  cases hst : station a s with
  | none => simp only [awaiting, hst]
  | some st =>
    cases hr : st.inFlight with
    | none => simp only [awaiting, hst, hr]
    | some r => simp only [awaiting, hst, hr, h st r hst hr, reduceCtorEq, if_false]

section Judgement
variable {a : Nat} {ans : Option Answer} {st : Station} {r : InFlight} {m : Message} {s : State}

theorem awaiting_of (hst : station a s = some st) (hr : st.inFlight = some r) (hphase : r.phase = .awaitingAck)
    (hm : message r.handle s = some m) : awaiting a s = some (r, m) := by
  simp only [awaiting, hst, hr, hphase, hm, if_true]

theorem takeAnswer_acked (haw : awaiting a s = some (r, m))
    (hacked : ∃ x, ans = some x ∧ x.ackValid = true ∧ r.seqSent = some x.ackSeq) :
    takeAnswer a ans s = judgeAcked a r m s := by
  obtain ⟨x, rfl, hx⟩ := hacked
  simp only [takeAnswer, haw, (acknowledges_iff x r.seqSent).mpr hx, if_true]

theorem takeAnswer_busy (haw : awaiting a s = some (r, m))
    (hnot : ¬ ∃ x, ans = some x ∧ x.ackValid = true ∧ r.seqSent = some x.ackSeq)
    (hbusy : ∃ x, ans = some x ∧ x.busy = true) : takeAnswer a ans s = judgeBusy a r s := by
  obtain ⟨x, rfl, hx⟩ := hbusy
  have hno : ¬ acknowledges x r.seqSent = true := fun e => hnot ⟨x, rfl, (acknowledges_iff x r.seqSent).mp e⟩
  simp only [takeAnswer, haw, if_neg hno, hx, if_true]

theorem takeAnswer_unanswered (haw : awaiting a s = some (r, m))
    (hnot : ¬ ∃ x, ans = some x ∧ x.ackValid = true ∧ r.seqSent = some x.ackSeq)
    (hidle : ¬ ∃ x, ans = some x ∧ x.busy = true) : takeAnswer a ans s = judgeUnanswered a r s := by
  cases ans with
  | none => simp only [takeAnswer, haw]
  | some x =>
    have hno : ¬ acknowledges x r.seqSent = true := fun e => hnot ⟨x, rfl, (acknowledges_iff x r.seqSent).mp e⟩
    have hfree : ¬ x.busy = true := fun e => hidle ⟨x, rfl, e⟩
    simp only [takeAnswer, haw, if_neg hno, if_neg hfree]

/-- A judgement that leaves the message in flight: the count, and the record as it is then. -/
theorem onInFlight_countStation (hst : station a s = some st) (hr : st.inFlight = some r) (c : StationCounter)
    (f : InFlight → InFlight) : onInFlight a f (countStation a c s) =
      setStation a (some (countIn c { st with inFlight := some (f r) })) s := by
  rw [onInFlight, countStation, onStation_some hst, onStation_setStation (station_isSome_range hst), countIn_inFlight, hr]
  rfl

end Judgement

/-- Settles O37: nothing where none awaits; otherwise the three judgements, each by its limit. -/
theorem outstandingSegmentsAreJudged : Obligations.OutstandingSegmentsAreJudged := by
  refine ⟨fun a ans s hready => by rw [takeAnswer, awaiting_none hready], ?_⟩
  intro a ans st r m s hst hr hphase hm acked busy again ends
  rw [find_eq_message] at hm
  have haw : awaiting a s = some (r, m) := awaiting_of hst hr hphase hm
  have hagain : ∀ c f, onInFlight a f (countStation a c s) = again c (f r) := onInFlight_countStation hst hr
  have hcounted : ∀ c, countStation a c s = setStation a (some (countIn c st)) s := fun c => onStation_some hst
  have hlimit : r.busy + 1 = Config.busyLimit ↔ r.busy = 15 := Nat.succ_inj
  refine ⟨fun ha hlast => ?_, fun ha hnext => ?_, fun ha hb hn => ?_, fun ha hb hn => ?_, fun ha hb hl => ?_,
    fun ha hb hl => ?_⟩
  · rw [takeAnswer_acked haw ha, judgeAcked, if_pos hlast, hcounted]
  · rw [takeAnswer_acked haw ha, judgeAcked, if_neg hnext, hagain]
  · rw [takeAnswer_busy haw ha hb, judgeBusy, if_neg (mt hlimit.mp hn), hagain]
  · rw [takeAnswer_busy haw ha hb, judgeBusy, if_pos (hlimit.mpr hn), hcounted]
  · rw [takeAnswer_unanswered haw ha hb, judgeUnanswered, if_pos hl, hagain]
  · rw [takeAnswer_unanswered haw ha hb, judgeUnanswered, if_neg (Nat.not_lt.mpr hl), hcounted]

end Sys2Proof.Machine
end

section
/-! SEND in the terms of the claims: the refusals in their order, the handle that is free, the place in the queue, and what an
accepted SEND does to the pool and its queue (R77 to R85). -/

namespace Sys2Proof.Machine

-- One proof after another, not in parallel: the whole text compiles under a bound on memory.
set_option Elab.async false

/-! ### The refusals (R78, R81) -/

theorem exec_send {tag dest flag : Byte} {bytes : List Byte} {rest : List Request} {s : State}
    (h : CanTake ⟨0x0E, tag, dest :: flag :: bytes⟩ rest s) : exec (.send tag (dest :: flag :: bytes)) s =
      .next (arbitrate (takeSend tag (dest :: flag :: bytes) { s with rex.inbox := rest })) :=
  request_suits (takeSend tag (dest :: flag :: bytes)) h (decide_eq_true (Nat.le_add_left 2 bytes.length))

/-- A flag byte is out of range above 1 (R195). -/
theorem flagOf_eq_none_iff (b : Byte) : flagOf b = none ↔ 1 < b := by
  unfold flagOf
  split
  · rename_i h
    simp [h]
  · split
    · rename_i h
      simp [h]
    · rename_i h0 h1
      simp only [BitVec.lt_def, true_iff]
      bv_omega

/-- The refusals of SEND in the terms of the claims (R81). -/
theorem sendRefusal_eq (dest flag : Byte) (bytes : List Byte) (s : State) : sendRefusal (dest :: flag :: bytes) s =
    if bytes = [] ∨ 64 < bytes.length then some .badLength
    else if dest = 0 ∨ 31 < dest ∨ 1 < flag then some .badArgument
    else if dest ≠ 31 ∧ station dest.toNat s = none then some .notEnrolled
    else if dest ≠ 31 ∧ (station dest.toNat s).any (fun st => decide (st.presence ≠ .present) && !st.hold) = true then
      some .stationAbsent
    else if 8 ≤ (queueOf dest.toNat s).length then some .queueFull
    else if s.mpl.free = 0 ∨ 32 ≤ s.mpl.down then some .poolFull
    else none := by
  have hlength : (dest :: flag :: bytes).length - 2 = bytes.length := rfl
  have hempty : bytes.length < 1 ↔ bytes = [] := Nat.lt_one_iff.trans List.length_eq_zero_iff
  have hzero : dest.toNat < 1 ↔ dest = 0 := by bv_omega
  have hhigh : 31 < dest.toNat ↔ 31 < dest := by bv_omega
  have hbroadcast : dest.toNat ≠ 31 ↔ dest ≠ 31 := by bv_omega
  simp only [sendRefusal, numAt, byteAt, List.getD_cons_zero, List.getD_cons_succ, hlength, Config.bufferSize,
    Config.broadcast, Config.queueDepth, Config.downlinkLimit, hempty, hzero, hhigh, flagOf_eq_none_iff, hbroadcast]

/-- A destination that takes a SEND: broadcast, or a record that is PRESENT or holds its messages (R81). -/
theorem takesSend_iff (dest : Byte) (s : State) :
    (¬(dest ≠ 31 ∧ station dest.toNat s = none) ∧
      ¬(dest ≠ 31 ∧ (station dest.toNat s).any (fun st => decide (st.presence ≠ .present) && !st.hold) = true)) ↔
    (dest ≠ 31 → ∃ st, station dest.toNat s = some st ∧ (st.presence = .present ∨ st.hold = true)) := by
  by_cases hd : dest = 31
  · simp [hd]
  · cases station dest.toNat s with
    | none => simp
    | some st => by_cases hp : st.presence = .present <;> simp [hp]

/-- No refusal applies exactly where a SEND fits. -/
theorem sendRefusal_none_iff (dest flag : Byte) (bytes : List Byte) (s : State) :
    sendRefusal (dest :: flag :: bytes) s = none ↔ SendFits dest flag bytes s := by
  have hbytes : ¬(bytes = [] ∨ 64 < bytes.length) ↔ 1 ≤ bytes.length ∧ bytes.length ≤ 64 := by
    rw [← List.length_eq_zero_iff]
    omega
  have hrange : ¬(dest = 0 ∨ 31 < dest ∨ 1 < flag) ↔ 1 ≤ dest ∧ dest ≤ 31 ∧ flag ≤ 1 := by bv_omega
  have hnone : ∀ {c : Prop} [Decidable c] {st : Status} {x : Option Status},
      (if c then some st else x) = none ↔ ¬c ∧ x = none := by
    intro c _ st x
    split <;> simp_all
  rw [sendRefusal_eq, SendFits, ← hbytes, ← hrange, ← takesSend_iff]
  simp only [hnone, not_or, Nat.not_le, and_true, and_assoc]

section Refused
variable {tag dest flag : Byte} {bytes : List Byte} {rest : List Request} {s : State}

theorem exec_send_refused (h : CanTake ⟨0x0E, tag, dest :: flag :: bytes⟩ rest s) {st : Status}
    (hr : sendRefusal (dest :: flag :: bytes) s = some st) (hst : st ≠ .poolFull) {code : Byte}
    (hcode : statusCode st = code) :
    exec (.send tag (dest :: flag :: bytes)) s = .next (arbitrate (answered rest 0x8E tag [code] s)) := by
  have hsame : sendRefusal (dest :: flag :: bytes) { s with rex.inbox := rest } = some st := hr
  rw [exec_send h, takeSend, hsame, ← hcode]
  split
  · rename_i e
    cases e
    exact absurd rfl hst
  · rename_i e
    cases e
    rfl
  · rename_i e
    cases e

/-- A SEND that finds no buffer is counted (R78). -/
theorem exec_send_poolFull (h : CanTake ⟨0x0E, tag, dest :: flag :: bytes⟩ rest s)
    (hr : sendRefusal (dest :: flag :: bytes) s = some .poolFull) : exec (.send tag (dest :: flag :: bytes)) s =
      .next (arbitrate (answered rest 0x8E tag [0x08] (countGlobal .downlinkLendRefusals s))) := by
  have hsame : sendRefusal (dest :: flag :: bytes) { s with rex.inbox := rest } = some .poolFull := hr
  rw [exec_send h, takeSend, hsame]
  rfl

end Refused

/-! ### An accepted SEND (R77, R79, R80, R82, R84) -/

/-- The handle of an accepted SEND (R79). -/
def sendHandle (s : State) : Nat := freeHandle 33 s.mpl.handleCounter s.mpl.messages

/-- The descriptor of an accepted SEND (R80). -/
def sendMessage (body : List Byte) (s : State) : Message :=
  { handle := sendHandle s, dest := numAt body 0, urgent := decide (byteAt body 1 = 0x01), bytes := body.drop 2,
    state := .queued }

/-- The pool of an accepted SEND, before its queue is changed (R77, R79). -/
def sendPool (body : List Byte) (s : State) : Mpl :=
  { free := s.mpl.free - 1, down := s.mpl.down + 1, up := s.mpl.up, handleCounter := nextHandle (sendHandle s),
    messages := s.mpl.messages ++ [sendMessage body s] }

/-- The queue that an accepted SEND has joined (R84). -/
def sendQueue (body : List Byte) (s : State) : List Nat :=
  joinQueue (decide (byteAt body 1 = 0x01)) (aheadOfUrgent (startedHandle (numAt body 0) s) s) (sendHandle s)
    (queueOf (numAt body 0) s)

theorem acceptSend_eq (body : List Byte) (s : State) : acceptSend body s =
    (setQueue (numAt body 0) (sendQueue body s) { s with mpl := sendPool body s }, sendHandle s) := rfl

theorem setQueue_rex_comm (d : Nat) (queue : List Nat) (rex : Rex) (s : State) :
    setQueue d queue { s with rex := rex } = { setQueue d queue s with rex := rex } := by
  simp only [setQueue, onStation_rex_comm]
  split <;> rfl

/-- An accepted SEND does not reach the executor, nor it the queues (R82, R162). -/
theorem acceptSend_inbox (body : List Byte) (rest : List Request) (s : State) :
    acceptSend body { s with rex.inbox := rest } =
      ({ (acceptSend body s).1 with rex := { s.rex with inbox := rest } }, (acceptSend body s).2) := by
  have hqueue : sendQueue body { s with rex.inbox := rest } = sendQueue body s := rfl
  have hpool : sendPool body { s with rex.inbox := rest } = sendPool body s := rfl
  have hcomm := setQueue_rex_comm (numAt body 0) (sendQueue body s) { s.rex with inbox := rest }
    { s with mpl := sendPool body s }
  rw [acceptSend_eq, hqueue, hpool]
  exact congrArg (fun v => (v, sendHandle s)) hcomm

theorem acceptSend_rex (body : List Byte) (s : State) : (acceptSend body s).1.rex = s.rex :=
  congrArg Control.rex (control_acceptSend body s)

theorem exec_send_accepted {tag dest flag : Byte} {bytes : List Byte} {rest : List Request} {s : State}
    (h : CanTake ⟨0x0E, tag, dest :: flag :: bytes⟩ rest s) (hfits : SendFits dest flag bytes s) :
    exec (.send tag (dest :: flag :: bytes)) s = .next (arbitrate (answered rest 0x8E tag
      (0x00 :: twoBytes (acceptSend (dest :: flag :: bytes) s).2) (acceptSend (dest :: flag :: bytes) s).1)) := by
  have hsame : sendRefusal (dest :: flag :: bytes) { s with rex.inbox := rest } = none :=
    (sendRefusal_none_iff dest flag bytes s).mpr hfits
  rw [exec_send h, takeSend, hsame, acceptSend_inbox, ← acceptSend_rex (dest :: flag :: bytes) s]
  rfl

/-- Settles O29: each refusal by the first check that applies, and the acceptance where none does. -/
theorem sendIsRefusedInItsOrder : Obligations.SendIsRefusedInItsOrder := by
  intro tag dest flag bytes rest s h answer
  have hrefusal := sendRefusal_eq dest flag bytes s
  split
  · rename_i hlength
    rw [if_pos hlength] at hrefusal
    exact exec_send_refused h hrefusal (by decide) rfl
  rename_i hlength
  rw [if_neg hlength] at hrefusal
  split
  · rename_i hrange
    rw [if_pos hrange] at hrefusal
    exact exec_send_refused h hrefusal (by decide) rfl
  rename_i hrange
  rw [if_neg hrange] at hrefusal
  split
  · rename_i hrecord
    rw [if_pos hrecord] at hrefusal
    exact exec_send_refused h hrefusal (by decide) rfl
  rename_i hrecord
  rw [if_neg hrecord] at hrefusal
  split
  · rename_i habsent
    rw [if_pos habsent] at hrefusal
    exact exec_send_refused h hrefusal (by decide) rfl
  rename_i habsent
  rw [if_neg habsent] at hrefusal
  split
  · rename_i hfull
    rw [if_pos hfull] at hrefusal
    exact exec_send_refused h hrefusal (by decide) rfl
  rename_i hfull
  rw [if_neg hfull] at hrefusal
  split
  · rename_i hpool
    rw [if_pos hpool] at hrefusal
    exact exec_send_poolFull h hrefusal
  · rename_i hpool
    rw [if_neg hpool] at hrefusal
    have hfits := (sendRefusal_none_iff dest flag bytes s).mp hrefusal
    exact ⟨hfits, _, _, exec_send_accepted h hfits⟩

end Sys2Proof.Machine
end

section
/-! An accepted SEND: the handle that is free, the place in the queue, and the queues in order with the new message (R77, R79,
R80, R82, R84, R85). -/

namespace Sys2Proof.Machine

-- One proof after another, not in parallel: the whole text compiles under a bound on memory.
set_option Elab.async false

/-! ### The handle (R79) -/

/-- The handle so many places after one, in the circle of 1 to 65535. -/
def handleAfter (c j : Nat) : Nat := (c - 1 + j) % 65535 + 1

theorem handleAfter_zero {c : Nat} (h : 1 ≤ c ∧ c ≤ 65535) : handleAfter c 0 = c := by
  unfold handleAfter
  omega

theorem handleAfter_range (c j : Nat) : 1 ≤ handleAfter c j ∧ handleAfter c j ≤ 65535 := by
  unfold handleAfter
  omega

theorem nextHandle_eq {h : Nat} (hr : 1 ≤ h ∧ h ≤ 65535) : nextHandle h = h % 65535 + 1 := by
  unfold nextHandle
  split <;> omega

theorem nextHandle_handleAfter (c j : Nat) : nextHandle (handleAfter c j) = handleAfter c (j + 1) := by
  rw [nextHandle_eq (handleAfter_range c j)]
  unfold handleAfter
  omega

/-- Within one turn of the circle no handle comes twice. -/
theorem nodup_handleAfter (c : Nat) {n : Nat} (hn : n ≤ 65535) : ((List.range n).map (handleAfter c)).Nodup := by
  refine List.nodup_range.map_on fun i hi j hj e => ?_
  rw [List.mem_range] at hi hj
  unfold handleAfter at e
  omega

/-- The search for a free handle passes handles that messages hold, and stops at one that none holds or when its tries are
used up. -/
theorem freeHandle_spec (c : Nat) (ms : List Message) (fuel i : Nat) :
    ∃ j ≤ fuel, freeHandle fuel (handleAfter c i) ms = handleAfter c (i + j) ∧
      (∀ k < j, ∃ m ∈ ms, m.handle = handleAfter c (i + k)) ∧
      (j < fuel → ∀ m ∈ ms, m.handle ≠ handleAfter c (i + j)) := by
  induction fuel generalizing i with
  | zero => exact ⟨0, Nat.le_refl 0, rfl, (fun _ hk => by cases hk), (fun hlt => by cases hlt)⟩
  | succ fuel ih =>
    by_cases hheld : ∃ m ∈ ms, m.handle = handleAfter c i
    · have hany : (ms.any fun m => m.handle == handleAfter c i) = true := by simpa using hheld
      obtain ⟨j, hj, he, hpassed, hfree⟩ := ih (i + 1)
      have hadd : ∀ k, i + 1 + k = i + (k + 1) := by omega
      refine ⟨j + 1, Nat.succ_le_succ hj, ?_, fun k hk => ?_, fun hlt => ?_⟩
      · rw [freeHandle, if_pos hany, nextHandle_handleAfter, he, hadd]
      · cases k with
        | zero => exact hheld
        | succ k => exact hadd k ▸ hpassed k (Nat.lt_of_succ_lt_succ hk)
      · exact hadd j ▸ hfree (Nat.lt_of_succ_lt_succ hlt)
    · have hany : ¬ (ms.any fun m => m.handle == handleAfter c i) = true := by simpa using hheld
      refine ⟨0, Nat.zero_le _, by rw [freeHandle, if_neg hany, Nat.add_zero], (fun _ hk => by cases hk), fun _ m hm e => ?_⟩
      exact hheld ⟨m, hm, e⟩

/-- Fewer messages than tries: a free handle is found (R79). -/
theorem sendHandle_free {s : State} (hc : 1 ≤ s.mpl.handleCounter ∧ s.mpl.handleCounter ≤ 65535)
    (hms : s.mpl.messages.length ≤ 32) : ∃ j, sendHandle s = handleAfter s.mpl.handleCounter j ∧
      (∀ m ∈ s.mpl.messages, m.handle ≠ sendHandle s) ∧
      ∀ k < j, ∃ m ∈ s.mpl.messages, m.handle = handleAfter s.mpl.handleCounter k := by
  obtain ⟨j, hj, he, hpassed, hfree⟩ := freeHandle_spec s.mpl.handleCounter s.mpl.messages 33 0
  simp only [handleAfter_zero hc, Nat.zero_add] at he hpassed hfree
  have hlt : j < 33 := by
    refine Nat.lt_of_le_of_ne hj fun e => ?_
    have hsub : (List.range 33).map (handleAfter s.mpl.handleCounter) ⊆ s.mpl.messages.map Message.handle := by
      intro x hx
      obtain ⟨k, hk, rfl⟩ := List.mem_map.mp hx
      obtain ⟨m, hm, hmh⟩ := hpassed k (e ▸ List.mem_range.mp hk)
      exact hmh ▸ List.mem_map_of_mem hm
    have hle := ((nodup_handleAfter s.mpl.handleCounter (by decide : 33 ≤ 65535)).subperm hsub).length_le
    simp only [List.length_map, List.length_range] at hle
    omega
  exact ⟨j, he, fun m hm e => hfree hlt m hm (e.trans he), hpassed⟩

/-! ### The place in the queue (R84) -/

/-- A message joins between a front and what it is ahead of: nothing for a non-urgent one; for an urgent one what follows the
last that is urgent or started. -/
theorem joinQueue_split (urgent : Bool) (ahead : Nat → Bool) (h : Nat) (queue : List Nat) :
    ∃ front behind, queue = front ++ behind ∧ joinQueue urgent ahead h queue = front ++ h :: behind ∧
      (urgent = false → behind = []) ∧
      (urgent = true → (∀ k ∈ behind, ahead k = false) ∧ ∀ k, front.getLast? = some k → ahead k = true) := by
  cases urgent with
  | false =>
    exact ⟨queue, [], (List.append_nil queue).symm, rfl, fun _ => rfl, fun e => by cases e⟩
  | true =>
    let behind := (queue.reverse.takeWhile fun x => !ahead x).reverse
    let front := (queue.reverse.dropWhile fun x => !ahead x).reverse
    have hsplit : queue = front ++ behind := by
      rw [← List.reverse_append, List.takeWhile_append_dropWhile, List.reverse_reverse]
    refine ⟨front, behind, hsplit, ?_, (fun e => by cases e), fun _ => ⟨fun k hk => ?_, fun k hk => ?_⟩⟩
    · have htake : queue.take (queue.length - behind.length) = front := by
        rw [hsplit, List.length_append, Nat.add_sub_cancel, List.take_left]
      change queue.take (queue.length - behind.length) ++ h :: behind = front ++ h :: behind
      rw [htake]
    · have hp := List.mem_takeWhile_imp (List.mem_reverse.mp hk)
      simpa using hp
    · rw [List.getLast?_reverse] at hk
      have hp := List.head?_dropWhile_not (fun x => !ahead x) queue.reverse
      rw [hk] at hp
      simpa using hp

theorem sendQueue_perm (body : List Byte) (s : State) :
    (sendQueue body s).Perm (sendHandle s :: queueOf (numAt body 0) s) := by
  obtain ⟨front, behind, hq, hjoin, -⟩ := joinQueue_split (decide (byteAt body 1 = 0x01))
    (aheadOfUrgent (startedHandle (numAt body 0) s) s) (sendHandle s) (queueOf (numAt body 0) s)
  rw [sendQueue, hjoin, hq]
  exact List.perm_middle

theorem aheadOfUrgent_iff {s : State} (hn : (s.mpl.messages.map Message.handle).Nodup) (started : Option Nat) (k : Nat) :
    aheadOfUrgent started s k = true ↔ started = some k ∨ ∃ m ∈ s.mpl.messages, m.handle = k ∧ m.urgent = true := by
  rw [aheadOfUrgent, Bool.or_eq_true, decide_eq_true_eq, Option.any_eq_true]
  refine or_congr_right ⟨?_, ?_⟩
  · rintro ⟨m, hm, hu⟩
    obtain ⟨hmem, hk⟩ := message_some hm
    exact ⟨m, hmem, hk, hu⟩
  · rintro ⟨m, hm, rfl, hu⟩
    exact ⟨m, message_of_mem hn hm, hu⟩

/-! ### The queue and the pool after an accepted SEND (R77, R79, R80, R85) -/

/-- A destination that a SEND fits is broadcast or enrolled. -/
theorem SendFits.enrolled {dest flag : Byte} {bytes : List Byte} {s : State} (h : SendFits dest flag bytes s) :
    dest.toNat = 31 ∨ (station dest.toNat s).isSome := by
  obtain ⟨-, -, hrecord, -⟩ := h
  refine or_iff_not_imp_left.mpr fun hd => ?_
  obtain ⟨st, hst, -⟩ := hrecord fun e => hd (by rw [e]; rfl)
  rw [hst]
  rfl

section Accepted
variable {dest flag : Byte} {bytes : List Byte} {s : State}

theorem acceptSend_isNow (hi : QueueInv s) : QueueIsNow dest.toNat (sendQueue (dest :: flag :: bytes) s) id s
    (acceptSend (dest :: flag :: bytes) s).1 := by
  rw [acceptSend_eq]
  exact setQueue_isNow hi _ _ rfl rfl

theorem queueOf_acceptSend (hi : QueueInv s) (hfits : SendFits dest flag bytes s) :
    queueOf dest.toNat (acceptSend (dest :: flag :: bytes) s).1 = sendQueue (dest :: flag :: bytes) s :=
  (acceptSend_isNow hi).queueOf_same (fun _ => rfl) hfits.enrolled

theorem acceptSend_mpl : (acceptSend (dest :: flag :: bytes) s).1.mpl =
    { sendPool (dest :: flag :: bytes) s with
      messages := markedFor dest.toNat (sendQueue (dest :: flag :: bytes) s)
        (s.mpl.messages ++ [sendMessage (dest :: flag :: bytes) s]) } := by
  rw [acceptSend_eq, setQueue_mpl]
  rfl

theorem acceptSend_frame (body : List Byte) (s : State) : (acceptSend body s).1 =
    { s with stt.records := (acceptSend body s).1.stt.records, mpl := (acceptSend body s).1.mpl,
             dlv := (acceptSend body s).1.dlv } := by
  rw [acceptSend_eq]
  exact setQueue_frame _ _ _

/-- The new message has a handle of its own and stands in its queue once. -/
theorem sendQueue_own (hi : QueueInv s) (hfree : ∀ m ∈ s.mpl.messages, m.handle ≠ sendHandle s) :
    OwnQueue dest.toNat (sendQueue (dest :: flag :: bytes) s)
      (s.mpl.messages ++ [sendMessage (dest :: flag :: bytes) s]) := by
  have hown := hi.own dest.toNat
  have hperm : (sendQueue (dest :: flag :: bytes) s).Perm (sendHandle s :: queueOf dest.toNat s) := sendQueue_perm _ s
  have hnot : sendHandle s ∉ queueOf dest.toNat s := fun hmem => by
    obtain ⟨m, hm, hmh, -⟩ := (hown.mem_iff _).mp hmem
    exact hfree m hm hmh
  refine ⟨?_, hperm.nodup_iff.mpr (List.nodup_cons.mpr ⟨hnot, hown.nodup⟩), fun k => ?_⟩
  · rw [List.map_append]
    refine List.nodup_append.mpr ⟨hown.handles, List.nodup_singleton _, fun x hx y hy e => ?_⟩
    obtain ⟨m, hm, rfl⟩ := List.mem_map.mp hx
    exact hfree m hm (e.trans (List.mem_singleton.mp hy))
  · rw [hperm.mem_iff, List.mem_cons, hown.mem_iff]
    simp only [List.mem_append, List.mem_singleton]
    constructor
    · rintro (rfl | ⟨m, hm, hk, hd⟩)
      · exact ⟨_, .inr rfl, rfl, rfl⟩
      · exact ⟨m, .inl hm, hk, hd⟩
    · rintro ⟨m, hm | rfl, hk, hd⟩
      · exact .inr ⟨m, hm, hk, hd⟩
      · exact .inl hk.symm

theorem sendQueue_length (body : List Byte) (s : State) :
    (sendQueue body s).length = (queueOf (numAt body 0) s).length + 1 := (sendQueue_perm body s).length_eq

theorem sendMessage_form (hfits : SendFits dest flag bytes s) (hhandle : 1 ≤ sendHandle s ∧ sendHandle s ≤ 65535) :
    MessageForm (sendMessage (dest :: flag :: bytes) s) := by
  obtain ⟨hbytes, ⟨hlow, hhigh, -⟩, -⟩ := hfits
  exact ⟨hhandle, ⟨BitVec.le_def.mp hlow, BitVec.le_def.mp hhigh⟩, hbytes⟩

/-- An accepted SEND leaves the queues in order. -/
theorem queueInv_acceptSend (hp : PoolInv s) (hi : QueueInv s) (hfits : SendFits dest flag bytes s) :
    QueueInv (acceptSend (dest :: flag :: bytes) s).1 := by
  have hs := hi.deliveryOk
  obtain ⟨-, hlimit, hheld, -⟩ := hp
  obtain ⟨j, hj, hfree, -⟩ := sendHandle_free hs.counter (hheld ▸ hlimit)
  have hrange : 1 ≤ sendHandle s ∧ sendHandle s ≤ 65535 := hj ▸ handleAfter_range _ j
  have hmpl := acceptSend_mpl (dest := dest) (flag := flag) (bytes := bytes) (s := s)
  refine queueInv_of_queueIsNow hi (acceptSend_isNow hi) (fun _ => ⟨rfl, rfl⟩) hfits.enrolled
    (congrArg Mpl.messages hmpl) ?_ (fun m hm => ?_) ?_ (sendQueue_own hi hfree) (fun m hd => ?_) (fun m hm hq => ?_)
  · rw [hmpl]
    change 1 ≤ nextHandle (sendHandle s) ∧ nextHandle (sendHandle s) ≤ 65535
    rw [nextHandle_eq hrange]
    omega
  · rcases List.mem_append.mp hm with hm | hm
    · exact hi.form m hm
    · exact List.mem_singleton.mp hm ▸ sendMessage_form hfits hrange
  · obtain ⟨-, -, -, hshort, -⟩ := hfits
    rw [sendQueue_length]
    exact hshort
  · rw [List.mem_append, List.mem_singleton]
    exact or_iff_left fun e => hd (by rw [e]; rfl)
  · rcases List.mem_append.mp hm with hm | hm
    · exact hm
    · obtain ⟨x, hx, hxh, -⟩ := ((hi.own dest.toNat).mem_iff _).mp hq
      rw [List.mem_singleton.mp hm] at hxh
      exact absurd hxh (hfree x hx)

end Accepted

/-- Settles O30: the free handle, the pool, the queue with its in-flight record, and the place in the queue. -/
theorem anAcceptedSendIsQueued : Obligations.AnAcceptedSendIsQueued := by
  intro tag dest flag bytes rest s h hp hi hfits d ahead handleAt
  let v := (acceptSend (dest :: flag :: bytes) s).1
  have hs := hi.deliveryOk
  obtain ⟨-, hlimit, hheld, -⟩ := hp
  obtain ⟨j, hj, hfree, hpassed⟩ := sendHandle_free hs.counter (hheld ▸ hlimit)
  have hrange : 1 ≤ sendHandle s ∧ sendHandle s ≤ 65535 := hj ▸ handleAfter_range _ j
  have hqueue : queueOf d v = sendQueue (dest :: flag :: bytes) s := queueOf_acceptSend hi hfits
  have hahead : ∀ k, aheadOfUrgent (startedHandle d s) s k = true ↔ ahead k := aheadOfUrgent_iff hi.1 _
  refine ⟨sendHandle s, v, exec_send_accepted h hfits, ⟨j, hj, hfree, hpassed⟩, acceptSend_frame _ s, ?_, ?_, ?_⟩
  · rw [hqueue, ← nextHandle_eq hrange]
    exact acceptSend_mpl
  · rw [hqueue]
    exact acceptSend_isNow hi
  · obtain ⟨front, behind, hq, hjoin, hlast, hurgent⟩ := joinQueue_split (decide (flag = 0x01))
      (aheadOfUrgent (startedHandle d s) s) (sendHandle s) (queueOf d s)
    refine ⟨front, behind, hq, hqueue.trans hjoin, fun h0 => hlast ?_, fun h1 => ?_⟩
    · rw [h0]
      rfl
    · obtain ⟨hbehind, hfront⟩ := hurgent (decide_eq_true h1)
      exact ⟨fun k hk hak => absurd ((hahead k).mpr hak) (by simp [hbehind k hk]),
        fun k hk => (hahead k).mp (hfront k hk)⟩

end Sys2Proof.Machine
end

section
/-! CANCEL, FLUSH and MSG_STATUS in the terms of the claims: what has started is spared, and the messages of one queue end one
after another (R97, R98, R100, R101). -/

namespace Sys2Proof.Machine

-- One proof after another, not in parallel: the whole text compiles under a bound on memory.
set_option Elab.async false

/-! ### The end of a message beside the executor (R97, R162) -/

theorem onStation_inbox (a : Nat) (f : Station → Station) (rest : List Request) (s : State) :
    onStation a f { s with rex.inbox := rest } = { onStation a f s with rex.inbox := rest } := by
  have hcomm := onStation_rex_comm a f { s.rex with inbox := rest } s
  rw [hcomm]
  exact congrArg (fun rex : Rex => { onStation a f s with rex := { rex with inbox := rest } }) (onStation_rex a f s).symm

theorem setQueue_inbox (d : Nat) (queue : List Nat) (rest : List Request) (s : State) :
    setQueue d queue { s with rex.inbox := rest } = { setQueue d queue s with rex.inbox := rest } := by
  have hcomm := setQueue_rex_comm d queue { s.rex with inbox := rest } s
  rw [hcomm]
  exact congrArg (fun rex : Rex => { setQueue d queue s with rex := { rex with inbox := rest } })
    (setQueue_rex d queue s).symm

theorem countStationResult_inbox (d : Nat) (r : Result) (rest : List Request) (s : State) :
    countStationResult d r { s with rex.inbox := rest } = { countStationResult d r s with rex.inbox := rest } := by
  cases r
  · exact onStation_inbox d _ rest s
  · exact onStation_inbox d _ rest s
  · rfl
  · rfl

/-- The end of a message does not reach the request inbox, nor the inbox it. -/
theorem endMessage_inbox (h : Nat) (r : Result) (w : Reason) (rest : List Request) (s : State) :
    endMessage h r w { s with rex.inbox := rest } = { endMessage h r w s with rex.inbox := rest } := by
  cases hm : message h s with
  | none => rw [endMessage_unknown hm, endMessage_unknown (s := { s with rex.inbox := rest }) hm]
  | some m =>
    have hqueue : queueOf m.dest { s with rex.inbox := rest } = queueOf m.dest s := rfl
    have hpool : ∀ t : State, countGlobal (resultCounter r) (withdrawn h { t with rex.inbox := rest }) =
        { countGlobal (resultCounter r) (withdrawn h t) with rex.inbox := rest } := fun _ => rfl
    rw [endMessage_eq hm, endMessage_eq (s := { s with rex.inbox := rest }) hm, hqueue, setQueue_inbox, hpool,
      countStationResult_inbox, offer_inbox]

theorem endMessages_inbox (hs : List Nat) (r : Result) (w : Reason) (rest : List Request) (s : State) :
    endMessages hs r w { s with rex.inbox := rest } = { endMessages hs r w s with rex.inbox := rest } := by
  induction hs generalizing s with
  | nil => rfl
  | cons h hs ih => rw [endMessages_cons, endMessages_cons, endMessage_inbox, ih]

/-! ### CANCEL (R98) -/

theorem exec_cancel {tag b0 b1 : Byte} {rest : List Request} {s : State} (h : CanTake ⟨0x0F, tag, [b0, b1]⟩ rest s) :
    exec (.cancel tag [b0, b1]) s = .next (arbitrate (takeCancel tag [b0, b1] { s with rex.inbox := rest })) :=
  request_suits (takeCancel tag [b0, b1]) h rfl

section Cancel
variable {tag b0 b1 : Byte} {rest : List Request} {s : State} {m : Message}

theorem takeCancel_unknown (hn : message (256 * b0.toNat + b1.toNat) s = none) :
    takeCancel tag [b0, b1] { s with rex.inbox := rest } = answered rest 0x8F tag [0x0A] s := by
  have hsame : message (pairAt [b0, b1] 0) { s with rex.inbox := rest } = none := hn
  simp only [takeCancel, hsame]
  rfl

theorem takeCancel_started (hm : message (256 * b0.toNat + b1.toNat) s = some m)
    (hst : startedHandle m.dest s = some (256 * b0.toNat + b1.toNat)) :
    takeCancel tag [b0, b1] { s with rex.inbox := rest } = answered rest 0x8F tag [0x0B] s := by
  have hsame : message (pairAt [b0, b1] 0) { s with rex.inbox := rest } = some m := hm
  have hstarted : startedHandle m.dest { s with rex.inbox := rest } = some (pairAt [b0, b1] 0) := hst
  simp only [takeCancel, hsame, hstarted, if_true]
  rfl

theorem takeCancel_queued (hm : message (256 * b0.toNat + b1.toNat) s = some m)
    (hst : startedHandle m.dest s ≠ some (256 * b0.toNat + b1.toNat)) :
    takeCancel tag [b0, b1] { s with rex.inbox := rest } =
      answered rest 0x8F tag [0x00] (endMessage (256 * b0.toNat + b1.toNat) .cancelled .none s) := by
  have hsame : message (pairAt [b0, b1] 0) { s with rex.inbox := rest } = some m := hm
  have hstarted : ¬ startedHandle m.dest { s with rex.inbox := rest } = some (pairAt [b0, b1] 0) := hst
  simp only [takeCancel, hsame, if_neg hstarted, endMessage_inbox]
  rfl

end Cancel

/-! ### A queue without what has not started (R85, R100) -/

/-- What has started stands at the head of its queue (R85). -/
theorem QueueInv.started_head {s : State} (hi : QueueInv s) {d k : Nat} (h : startedHandle d s = some k) :
    (queueOf d s).head? = some k := by
  unfold startedHandle at h
  split at h
  · rename_i hd
    obtain ⟨r, hr, rfl⟩ := Option.map_eq_some_iff.mp h
    obtain ⟨hin, -⟩ := Option.filter_eq_some_iff.mp hr
    have hhead := hi.broadcast.head
    rw [hin] at hhead
    rw [hd]
    exact hhead.symm
  · split at h
    · rename_i st hst
      obtain ⟨r, hr, rfl⟩ := Option.map_eq_some_iff.mp h
      obtain ⟨hin, -⟩ := Option.filter_eq_some_iff.mp hr
      have hhead := hi.inFlight_handle hst
      rw [hin] at hhead
      rw [queueOf_station hst]
      exact hhead.symm
    · cases h

/-- Of a queue only what has started is left when the rest has gone. -/
theorem filter_started {queue : List Nat} {started : Option Nat} (hn : queue.Nodup)
    (hhead : ∀ k, started = some k → queue.head? = some k) :
    (queue.filter fun k => k ∉ queue.filter fun h => started ≠ some h) = started.toList := by
  have hfilter : (queue.filter fun k => k ∉ queue.filter fun h => started ≠ some h) =
      queue.filter fun k => started = some k :=
    List.filter_congr fun k hk => by simp [hk]
  rw [hfilter]
  cases started with
  | none => simp
  | some k =>
    obtain ⟨rest, rfl⟩ := List.head?_eq_some_iff.mp (hhead k rfl)
    have hk : k ∉ rest := (List.nodup_cons.mp hn).1
    have hnone : (rest.filter fun x => some k = some x) = [] :=
      List.filter_eq_nil_iff.mpr fun x hx e => hk (Option.some.inj (of_decide_eq_true e) ▸ hx)
    rw [List.filter_cons_of_pos (by simp), hnone]
    rfl

/-- Descriptors that stand as they should are left as they are by marking (R80). -/
theorem markedFor_self {d : Nat} {queue : List Nat} {ms : List Message}
    (h : ∀ m ∈ ms, m.dest = d → (m.state = .inFlight ↔ queue.head? = some m.handle)) : markedFor d queue ms = ms := by
  refine (List.map_congr_left fun m hm => ?_).trans (List.map_id ms)
  split
  · rename_i hd
    have hm := h m hm hd
    obtain ⟨handle, dest, urgent, bytes, state⟩ := m
    cases state <;> simp_all
  · rfl

theorem offerAll_ntq_congr (ns : List Notice) {s t : State} (hn : t.ntq = s.ntq) (hr : t.rex = s.rex) :
    (offerAll ns t).ntq = (offerAll ns s).ntq := by
  induction ns generalizing s t with
  | nil => exact hn
  | cons n ns ih => exact ih (offer_ntq_congr n hn hr) (by rw [offer_rex, offer_rex, hr])

theorem QueueInv.message_of_queued {s : State} (hi : QueueInv s) {d h : Nat} (hh : h ∈ queueOf d s) :
    ∃ m, message h s = some m ∧ m.dest = d := (hi.own d).message hh

/-- What the end of some messages of one queue leaves of it, of the descriptors and of the notice queue (R97, R100). -/
structure Emptied (d : Nat) (hs : List Nat) (r : Result) (w : Reason) (s t : State) : Prop where
  queue : queueOf d t = (queueOf d s).filter fun k => k ∉ hs
  messages : t.mpl.messages = markedFor d (queueOf d t) (s.mpl.messages.filter fun m => m.handle ∉ hs)
  notices : t.ntq = (offerAll (hs.map fun h => .outcome h d r w) s).ntq

theorem endMessages_emptied {d : Nat} (r : Result) (w : Reason) {hs : List Nat} {s : State} (hi : QueueInv s)
    (hn : hs.Nodup) (hq : ∀ h ∈ hs, h ∈ queueOf d s) : Emptied d hs r w s (endMessages hs r w s) := by
  induction hs generalizing s with
  | nil =>
    have hall : ∀ xs : List Nat, (xs.filter fun k => k ∉ ([] : List Nat)) = xs := fun xs =>
      List.filter_eq_self.mpr fun k _ => by simp
    have hmessages : (s.mpl.messages.filter fun m => m.handle ∉ ([] : List Nat)) = s.mpl.messages :=
      List.filter_eq_self.mpr fun m _ => by simp
    refine ⟨(hall _).symm, ?_, rfl⟩
    rw [hmessages]
    exact (markedFor_self fun m hm hd => hd ▸ hi.deliveryOk.marked m hm).symm
  | cons h hs ih =>
    obtain ⟨hnot, hn⟩ := List.nodup_cons.mp hn
    obtain ⟨m, hm, rfl⟩ := hi.message_of_queued (hq h List.mem_cons_self)
    obtain ⟨hmem, -⟩ := message_some hm
    have hqueue : queueOf m.dest (endMessage h r w s) = queueWithout h (queueOf m.dest s) :=
      (endMessage_isNow hi hm r w).queueOf_same (fun st => by cases r <;> rfl) (hi.dest_enrolled hmem)
    have hpool := congrArg Mpl.messages (endMessage_pool hi hm r w)
    obtain ⟨hntq, -⟩ := endMessage_notice hm r w
    obtain ⟨hq', hm', hn'⟩ := ih (hi.endMessage h r w) hn fun k hk => by
      rw [hqueue]
      refine List.mem_filter.mpr ⟨hq k (List.mem_cons_of_mem h hk), ?_⟩
      exact decide_eq_true fun e => hnot (e ▸ hk)
    rw [endMessages_cons]
    refine ⟨?_, ?_, ?_⟩
    · rw [hq', hqueue, queueWithout, List.filter_filter]
      exact List.filter_congr fun k _ => by simp [Bool.and_comm]
    · rw [hm', hpool, markedFor_filter (fun _ _ => rfl), markedFor_markedFor, List.filter_filter]
      exact congrArg _ (List.filter_congr fun k _ => by simp [Bool.and_comm])
    · rw [hn']
      exact offerAll_ntq_congr _ hntq (by rw [endMessage_rex, offer_rex])

/-! ### FLUSH (R100) -/

theorem exec_flush {tag a : Byte} {rest : List Request} {s : State} (h : CanTake ⟨0x10, tag, [a]⟩ rest s) :
    exec (.flush tag [a]) s = .next (arbitrate (takeFlush tag [a] { s with rex.inbox := rest })) :=
  request_suits (takeFlush tag [a]) h rfl

/-- The messages of a queue that a FLUSH ends (R100). -/
def flushed (d : Nat) (s : State) : List Nat := (queueOf d s).filter fun h => startedHandle d s ≠ some h

section Flush
variable {tag a : Byte} {rest : List Request} {s : State}

theorem takeFlush_range (ha : a = 0 ∨ 31 < a) :
    takeFlush tag [a] { s with rex.inbox := rest } = answered rest 0x90 tag [0x03] s := by
  have hrange : numAt [a] 0 < 1 ∨ Config.broadcast < numAt [a] 0 := by
    simp only [numAt, byteAt, List.getD_cons_zero, Config.broadcast]
    bv_omega
  simp only [takeFlush, if_pos hrange]
  rfl

theorem takeFlush_unenrolled (hlow : 1 ≤ a) (hhigh : a ≤ 30) (hst : station a.toNat s = none) :
    takeFlush tag [a] { s with rex.inbox := rest } = answered rest 0x90 tag [0x06] s := by
  have hrange : ¬(numAt [a] 0 < 1 ∨ Config.broadcast < numAt [a] 0) := by
    simp only [numAt, byteAt, List.getD_cons_zero, Config.broadcast]
    bv_omega
  have hnone : numAt [a] 0 ≠ Config.broadcast ∧ station (numAt [a] 0) { s with rex.inbox := rest } = none := by
    refine ⟨?_, hst⟩
    simp only [numAt, byteAt, List.getD_cons_zero, Config.broadcast]
    bv_omega
  simp only [takeFlush, if_neg hrange, if_pos hnone]
  rfl

theorem takeFlush_ends (ha : a = 31 ∨ (station a.toNat s).isSome) :
    takeFlush tag [a] { s with rex.inbox := rest } = answered rest 0x90 tag
      [0x00, BitVec.ofNat 8 (flushed a.toNat s).length] (endMessages (flushed a.toNat s) .discarded .flushed s) := by
  have hrange : ¬(numAt [a] 0 < 1 ∨ Config.broadcast < numAt [a] 0) := by
    simp only [numAt, byteAt, List.getD_cons_zero, Config.broadcast]
    rcases ha with rfl | ha
    · decide
    · obtain ⟨st, hst⟩ := Option.isSome_iff_exists.mp ha
      have := station_isSome_range hst
      omega
  have hsome : ¬(numAt [a] 0 ≠ Config.broadcast ∧ station (numAt [a] 0) { s with rex.inbox := rest } = none) := by
    rintro ⟨hne, hnone⟩
    rcases ha with rfl | ha
    · exact hne rfl
    · have hst : station a.toNat s = none := hnone
      rw [hst] at ha
      cases ha
  have hflushed : (queueOf (numAt [a] 0) { s with rex.inbox := rest }).filter
      (fun h => decide (startedHandle (numAt [a] 0) { s with rex.inbox := rest } ≠ some h)) = flushed a.toNat s := rfl
  simp only [takeFlush, if_neg hrange, if_neg hsome, hflushed, endMessages_inbox]
  rfl

end Flush

theorem nodup_flushed {d : Nat} {s : State} (hi : QueueInv s) : (flushed d s).Nodup :=
  (hi.own d).nodup.sublist List.filter_sublist

/-- After a FLUSH the queue holds what has started, and no other message of it is in the pool (R100). -/
theorem flush_leaves {d : Nat} {s : State} (hi : QueueInv s) :
    let v := endMessages (flushed d s) .discarded .flushed s
    queueOf d v = (startedHandle d s).toList ∧
    v.mpl.messages = (s.mpl.messages.filter fun m => m.handle ∉ flushed d s) ∧
    v.ntq = (offerAll ((flushed d s).map fun h => .outcome h d .discarded .flushed) s).ntq := by
  intro v
  obtain ⟨hqueue, hmessages, hnotices⟩ := endMessages_emptied .discarded .flushed hi (nodup_flushed (d := d) hi)
    fun h hh => List.mem_of_mem_filter hh
  have hleft : queueOf d v = (startedHandle d s).toList :=
    hqueue.trans (filter_started (hi.own d).nodup fun k hk => hi.started_head hk)
  refine ⟨hleft, hmessages.trans (markedFor_self fun m hm hd => ?_), hnotices⟩
  obtain ⟨hmem, hkept⟩ := List.mem_filter.mp hm
  have hin : m.handle ∈ queueOf d s := ((hi.own d).mem_iff _).mpr ⟨m, hmem, rfl, hd⟩
  have hstarted : startedHandle d s = some m.handle := by
    simpa [flushed, hin] using hkept
  have hmarked := hi.deliveryOk.marked m hmem
  change (_ ↔ (queueOf m.dest s).head? = _) at hmarked
  rw [hd, hi.started_head hstarted] at hmarked
  change _ ↔ (queueOf d v).head? = _
  rw [hleft, hstarted]
  exact hmarked

/-- Settles O32: CANCEL by the message and whether it has started; FLUSH by the address, and what it leaves. -/
theorem cancelAndFlushSpareAStartedMessage : Obligations.CancelAndFlushSpareAStartedMessage := by
  refine ⟨fun tag b0 b1 rest s h => ?_, fun tag a rest s h => ?_⟩
  · rw [exec_cancel h]
    refine ⟨fun hnone => ?_, fun m hm hi hh hst => ?_, fun m hm hi hh hst => ?_⟩
    · rw [takeCancel_unknown (message_none.mpr hnone)]
    · rw [takeCancel_started (hh ▸ message_of_mem hi.1 hm) hst]
    · rw [takeCancel_queued (hh ▸ message_of_mem hi.1 hm) hst]
  · rw [exec_flush h]
    refine ⟨fun ha => ?_, fun hlow hhigh hst => ?_, fun ha => ?_, fun _ hi => flush_leaves hi⟩
    · rw [takeFlush_range ha]
    · rw [takeFlush_unenrolled hlow hhigh hst]
    · rw [takeFlush_ends ha]
      rfl

/-! ### MSG_STATUS (R101) -/

theorem exec_msgStatus {tag b0 b1 : Byte} {rest : List Request} {s : State} (h : CanTake ⟨0x11, tag, [b0, b1]⟩ rest s) :
    exec (.msgStatus tag [b0, b1]) s = .next (arbitrate (takeMsgStatus tag [b0, b1] { s with rex.inbox := rest })) :=
  request_suits (takeMsgStatus tag [b0, b1]) h rfl

theorem takeMsgStatus_unknown {tag b0 b1 : Byte} {rest : List Request} {s : State}
    (hn : message (256 * b0.toNat + b1.toNat) s = none) :
    takeMsgStatus tag [b0, b1] { s with rex.inbox := rest } = answered rest 0x91 tag [0x0A] s := by
  have hsame : message (pairAt [b0, b1] 0) { s with rex.inbox := rest } = none := hn
  simp only [takeMsgStatus, hsame]
  rfl

theorem takeMsgStatus_known {tag b0 b1 : Byte} {rest : List Request} {s : State} {m : Message}
    (hm : message (256 * b0.toNat + b1.toNat) s = some m) : takeMsgStatus tag [b0, b1] { s with rex.inbox := rest } =
      answered rest 0x91 tag (0x00 :: msgStatusItems m s) s := by
  have hsame : message (pairAt [b0, b1] 0) { s with rex.inbox := rest } = some m := hm
  simp only [takeMsgStatus, hsame]
  rfl

section Items
variable {m : Message} {s : State}

theorem inFlightItems_queued (h : m.state = .queued) : inFlightItems m s = [0, 0, 0, 0, 0, 0, 0, 0] := by
  simp only [inFlightItems, h]

theorem inFlightItems_station {st : Station} {r : InFlight} (h : m.state = .inFlight) (hd : m.dest ≠ 31)
    (hst : station m.dest s = some st) (hr : st.inFlight = some r) : inFlightItems m s =
      oneByte r.index :: optionalSeq r.seqSent ++
        [flagByte r.started, oneByte r.retries, oneByte r.busy, phaseCode r.phase, 0] := by
  have hd' : ¬ m.dest = Config.broadcast := hd
  simp only [inFlightItems, h, if_neg hd', hst, Option.bind_some, hr]

theorem inFlightItems_broadcast {r : BroadcastInFlight} (h : m.state = .inFlight) (hd : m.dest = 31)
    (hr : s.dlv.inFlight = some r) : inFlightItems m s =
      oneByte r.index :: optionalSeq r.seqSent ++ [flagByte r.started, 0, 0, 0, oneByte r.sends] := by
  have hd' : m.dest = Config.broadcast := hd
  simp only [inFlightItems, h, if_pos hd', hr]

end Items

/-- Settles O33: the descriptor, the place in the queue, and the in-flight items by the message's state and destination. -/
theorem msgStatusAnswersTheDescriptor : Obligations.MsgStatusAnswersTheDescriptor := by
  intro tag b0 b1 rest s h handle seq
  rw [exec_msgStatus h]
  refine ⟨fun hnone => ?_, fun m hfind => ?_⟩
  · rw [takeMsgStatus_unknown (message_none.mpr hnone)]
  · rw [find_eq_message] at hfind
    obtain ⟨-, hhandle⟩ := message_some hfind
    intro head
    have hhead : ∀ items, 0x00 :: ([oneByte m.dest, flagByte m.urgent, oneByte m.bytes.length, msgStateCode m.state,
        oneByte ((queueOf m.dest s).idxOf m.handle)] ++ items) = head ++ items := by
      intro items
      rw [hhandle]
      cases hs : m.state
      all_goals
        simp only [head, hs]
        rfl
    have hseq : ∀ q, optionalSeq q = seq q := fun q => by cases q <;> rfl
    rw [takeMsgStatus_known hfind, msgStatusItems, hhead]
    refine ⟨fun hs => ?_, fun st r hs hd hst hr => ?_, fun r hs hd hr => ?_⟩
    · rw [inFlightItems_queued hs]
    · rw [inFlightItems_station hs hd hst hr, hseq]
      cases r.phase <;> simp [oneByte, flagByte, phaseCode]
    · rw [inFlightItems_broadcast hs hd hr, hseq]
      simp [oneByte, flagByte]

end Sys2Proof.Machine
end

section
/-! The buffers of the pool, by their holders: what PoolInv reads, and what each operation does to it (R77, R107, R108, R122). -/

namespace Sys2Proof.Machine

-- One proof after another, not in parallel: the whole text compiles under a bound on memory.
set_option Elab.async false

/-! ### What PoolInv reads -/

/-- The counts of the pool and their holders: the messages, the open contexts by address, and the inbox entries. -/
structure Holdings where
  free : Nat
  down : Nat
  up : Nat
  messages : Nat
  contexts : Nat → Bool
  inbox : Nat

/-- A record with an open context. -/
def contextOpen (r : Option Station) : Bool := (r.bind Station.context).isSome

def holdings (s : State) : Holdings :=
  { free := s.mpl.free, down := s.mpl.down, up := s.mpl.up, messages := s.mpl.messages.length,
    contexts := fun a => contextOpen (station a s), inbox := s.ulr.inbox.length }

/-- The number of addresses with an open context. -/
def openCount (contexts : Nat → Bool) : Nat := (List.range' 1 30).countP contexts

/-- PoolInv, in these terms. -/
structure HoldingsOk (x : Holdings) : Prop where
  total : x.free + x.down + x.up = 48
  limit : x.down ≤ 32
  messages : x.down = x.messages
  uplink : x.up = openCount x.contexts + x.inbox
  inbox : x.inbox ≤ 16

theorem records_toList (s : State) : s.stt.records.toList = (List.range' 1 30).map fun a => station a s := by
  refine List.ext_getElem (by simp) fun i hi _ => ?_
  have hi : i < 30 := by simpa using hi
  have haddress : stationAddress (1 + i) = true := by
    rw [stationAddress, decide_eq_true_eq]
    omega
  simp [station, haddress, hi]

theorem openContexts_eq (s : State) : openContexts s = openCount (holdings s).contexts := by
  rw [openContexts, records_toList, List.countP_map]
  rfl

theorem poolInv_iff (s : State) : PoolInv s ↔ HoldingsOk (holdings s) := by
  unfold PoolInv
  rw [openContexts_eq]
  exact ⟨fun ⟨h1, h2, h3, h4, h5⟩ => ⟨h1, h2, h3, h4, h5⟩, fun ⟨h1, h2, h3, h4, h5⟩ => ⟨h1, h2, h3, h4, h5⟩⟩

theorem PoolInv.holdingsOk {s : State} (h : PoolInv s) : HoldingsOk (holdings s) := (poolInv_iff s).mp h

theorem PoolInv.congr {s t : State} (h : PoolInv s) (e : holdings t = holdings s) : PoolInv t :=
  (poolInv_iff t).mpr (e ▸ h.holdingsOk)

/-- One address opens or closes its context. -/
theorem openCount_update {a : Nat} (ha : 1 ≤ a ∧ a ≤ 30) (contexts : Nat → Bool) (b : Bool) :
    openCount (Function.update contexts a b) + (contexts a).toNat = openCount contexts + b.toNat := by
  have hmem : a ∈ List.range' 1 30 := List.mem_range'_1.mpr (by omega)
  have hothers : ((List.range' 1 30).erase a).countP (Function.update contexts a b) =
      ((List.range' 1 30).erase a).countP contexts := by
    refine List.countP_congr fun k hk => ?_
    rw [Function.update_of_ne ((List.nodup_range' (s := 1) (n := 30)).mem_erase_iff.mp hk).1]
  have hcount : ∀ f : Nat → Bool, openCount f = ((List.range' 1 30).erase a).countP f + (f a).toNat := by
    intro f
    rw [openCount, (List.perm_cons_erase hmem).countP_eq, List.countP_cons]
    cases f a <;> rfl
  rw [hcount, hcount, hothers, Function.update_self]
  omega

/-! ### Changes of one record -/

theorem contexts_setStation {a : Nat} (ha : 1 ≤ a ∧ a ≤ 30) (r : Option Station) (s : State) :
    (holdings (setStation a r s)).contexts = Function.update (holdings s).contexts a (contextOpen r) := by
  funext b
  by_cases hb : b = a
  · subst hb
    rw [Function.update_self]
    exact congrArg contextOpen (station_setStation_same ha)
  · rw [Function.update_of_ne hb]
    exact congrArg contextOpen (station_setStation_other hb)

/-- A record is written: only the open contexts can change. -/
theorem holdings_setStation {a : Nat} (ha : 1 ≤ a ∧ a ≤ 30) (r : Option Station) (s : State) :
    holdings (setStation a r s) =
      { holdings s with contexts := Function.update (holdings s).contexts a (contextOpen r) } := by
  rw [← contexts_setStation ha]
  simp only [holdings, setStation_mpl, setStation_ulr]

/-- A record is written with its context as open as it was. -/
theorem holdings_setStation_same {a : Nat} {r : Option Station} {s : State}
    (h : contextOpen r = contextOpen (station a s)) : holdings (setStation a r s) = holdings s := by
  by_cases ha : 1 ≤ a ∧ a ≤ 30
  · have hsame : Function.update (holdings s).contexts a (contextOpen r) = (holdings s).contexts :=
      Function.update_eq_self_iff.mpr h
    rw [holdings_setStation ha, hsame]
  · rw [setStation, if_neg (by simpa [stationAddress] using ha)]

theorem holdings_onStation {f : Station → Station} (hf : ∀ st, (f st).context.isSome = st.context.isSome) (a : Nat)
    (s : State) : holdings (onStation a f s) = holdings s := by
  cases hst : station a s with
  | none => rw [onStation_none hst]
  | some st =>
    rw [onStation_some hst]
    exact holdings_setStation_same (by rw [hst]; exact hf st)

theorem holdings_onStations {f : Station → Station} (hf : ∀ st, (f st).context.isSome = st.context.isSome) (s : State) :
    holdings (onStations f s) = holdings s := by
  have hcontexts : (fun a => contextOpen (station a (onStations f s))) = fun a => contextOpen (station a s) := by
    funext a
    rw [station_onStations]
    cases station a s with
    | none => rfl
    | some st => exact hf st
  simp only [holdings, hcontexts]
  rfl

/-- What leaves the records, the pool and the uplink inbox alone leaves the buffers with their holders. -/
theorem holdings_of_blocks {s t : State} (hstt : t.stt = s.stt) (hmpl : t.mpl = s.mpl) (hulr : t.ulr = s.ulr) :
    holdings t = holdings s := by
  have hsame : ∀ a, station a t = station a s := fun a => station_congr (congrArg Stt.records hstt)
  simp only [holdings, hsame, hmpl, hulr]

@[simp] theorem holdings_countStation (a : Nat) (c : StationCounter) (s : State) :
    holdings (countStation a c s) = holdings s := holdings_onStation (fun _ => by rfl) a s
@[simp] theorem holdings_countGlobal (c : GlobalCounter) (s : State) : holdings (countGlobal c s) = holdings s := rfl
@[simp] theorem holdings_offer (n : Notice) (s : State) : holdings (offer n s) = holdings s :=
  holdings_of_blocks (offer_stt n s) (offer_mpl n s) (offer_ulr n s)

theorem holdings_setQueue (d : Nat) (queue : List Nat) (s : State) : holdings (setQueue d queue s) = holdings s := by
  have hmarked : ∀ (t : State) (head : Option Nat),
      holdings { t with mpl.messages := markMessages d head t.mpl.messages } = holdings t := fun t head => by
    simp only [holdings, markMessages, List.length_map]
    rfl
  unfold setQueue
  refine (hmarked _ _).trans ?_
  split
  · rfl
  · exact holdings_onStation (fun _ => by rfl) d s

theorem holdings_countStationResult (d : Nat) (r : Result) (s : State) :
    holdings (countStationResult d r s) = holdings s := by
  cases r with
  | delivered | failed => exact holdings_countStation d _ s
  | discarded | cancelled => rfl

/-! ### The counts along a change of one holder (R77, R82, R97, R117, R122, R124) -/

section Counts
variable {x : Holdings}

/-- A message leaves the pool (R97). -/
theorem HoldingsOk.ended (h : HoldingsOk x) (hpos : 0 < x.messages) :
    HoldingsOk { x with free := x.free + 1, down := x.down - 1, messages := x.messages - 1 } := by
  obtain ⟨htotal, hlimit, hmessages, huplink, hinbox⟩ := h
  exact ⟨by dsimp only; omega, by dsimp only; omega, by dsimp only; omega, huplink, hinbox⟩

/-- A message joins the pool, within the limit of downlink-held buffers (R77, R81, R82). -/
theorem HoldingsOk.sent (h : HoldingsOk x) (hfree : x.free ≠ 0) (hdown : x.down < 32) :
    HoldingsOk { x with free := x.free - 1, down := x.down + 1, messages := x.messages + 1 } := by
  obtain ⟨htotal, hlimit, hmessages, huplink, hinbox⟩ := h
  exact ⟨by dsimp only; omega, hdown, by dsimp only; omega, huplink, hinbox⟩

/-- An open context is closed and its buffer returned (R122). -/
theorem HoldingsOk.closed (h : HoldingsOk x) {a : Nat} (ha : 1 ≤ a ∧ a ≤ 30) (hopen : x.contexts a = true) :
    HoldingsOk { x with free := x.free + 1, up := x.up - 1, contexts := Function.update x.contexts a false } := by
  obtain ⟨htotal, hlimit, hmessages, huplink, hinbox⟩ := h
  have hcount := openCount_update ha x.contexts false
  rw [hopen, Bool.toNat_true, Bool.toNat_false] at hcount
  exact ⟨by dsimp only; omega, hlimit, hmessages, by dsimp only; omega, hinbox⟩

/-- An inbox entry is fetched (R124). -/
theorem HoldingsOk.fetched (h : HoldingsOk x) (hpos : 0 < x.inbox) :
    HoldingsOk { x with free := x.free + 1, up := x.up - 1, inbox := x.inbox - 1 } := by
  obtain ⟨htotal, hlimit, hmessages, huplink, hinbox⟩ := h
  exact ⟨by dsimp only; omega, hlimit, hmessages, by dsimp only; omega, by dsimp only; omega⟩

/-- A segment is accepted: without an open context a buffer is lent, and the last segment moves the buffer to the inbox
(R117, R123). -/
theorem HoldingsOk.accepted (h : HoldingsOk x) {a : Nat} (ha : 1 ≤ a ∧ a ≤ 30) (last : Bool)
    (hfree : x.contexts a = false → x.free ≠ 0) (hroom : last = true → x.inbox < 16) :
    HoldingsOk { x with free := x.free - (!x.contexts a).toNat, up := x.up + (!x.contexts a).toNat,
                        contexts := Function.update x.contexts a (!last), inbox := x.inbox + last.toNat } := by
  obtain ⟨htotal, hlimit, hmessages, huplink, hinbox⟩ := h
  have hcount := openCount_update ha x.contexts (!last)
  have hnot : ∀ b : Bool, (!b).toNat + b.toNat = 1 := by decide
  have hopen := hnot (x.contexts a)
  have hlast := hnot last
  have hlent : (!x.contexts a).toNat ≤ x.free := by
    cases hc : x.contexts a
    · exact Nat.pos_of_ne_zero (hfree hc)
    · exact Nat.zero_le _
  have hjoins : x.inbox + last.toNat ≤ 16 := by
    cases last
    · exact hinbox
    · exact hroom rfl
  exact ⟨by dsimp only; omega, hlimit, hmessages, by dsimp only; omega, hjoins⟩

end Counts

/-! ### The end of a message and an accepted SEND (R82, R97) -/

/-- Of the messages of a queue that has changed, the one that ends is still there to leave. -/
theorem length_withdrawn {h : Nat} {m : Message} {s : State} (hm : message h s = some m) (d : Nat) (queue : List Nat) :
    (withdrawn h (setQueue d queue s)).mpl.messages.length = s.mpl.messages.length - 1 := by
  obtain ⟨hmem, hh⟩ := message_some hm
  obtain ⟨n, hn, hnh, -⟩ := (exists_mem_markedFor (a := d) (queue := queue)).mpr ⟨m, hmem, hh, rfl⟩
  have hmarked : (setQueue d queue s).mpl.messages = markedFor d queue s.mpl.messages := by
    rw [setQueue_mpl]
    rfl
  change ((setQueue d queue s).mpl.messages.eraseP fun m => m.handle == h).length = _
  rw [hmarked, List.length_eraseP_of_mem hn (by exact beq_iff_eq.mpr hnh), markedFor, List.length_map]

theorem holdings_endMessage {h : Nat} {m : Message} {s : State} (hm : message h s = some m) (r : Result) (w : Reason) :
    holdings (endMessage h r w s) =
      { holdings s with free := (holdings s).free + 1, down := (holdings s).down - 1,
                        messages := (holdings s).messages - 1 } := by
  have hwithdrawn : ∀ t, holdings (withdrawn h t) = { holdings t with
      free := (holdings t).free + 1, down := (holdings t).down - 1,
      messages := (withdrawn h t).mpl.messages.length } := fun _ => rfl
  rw [endMessage_eq hm, holdings_offer, holdings_countStationResult, holdings_countGlobal, hwithdrawn,
    length_withdrawn hm, holdings_setQueue]
  rfl

theorem PoolInv.endMessage {s : State} (hp : PoolInv s) (h : Nat) (r : Result) (w : Reason) :
    PoolInv (endMessage h r w s) := by
  cases hm : message h s with
  | none =>
    rw [endMessage_unknown hm]
    exact hp
  | some m =>
    rw [poolInv_iff, holdings_endMessage hm]
    exact hp.holdingsOk.ended (List.length_pos_of_mem (message_some hm).1)

theorem holdings_acceptSend (body : List Byte) (s : State) : holdings (acceptSend body s).1 =
    { holdings s with free := (holdings s).free - 1, down := (holdings s).down + 1,
                      messages := (holdings s).messages + 1 } := by
  have hlength : (sendPool body s).messages.length = (holdings s).messages + 1 := by
    rw [sendPool, List.length_append, List.length_singleton]
    rfl
  rw [acceptSend_eq, holdings_setQueue, ← hlength]
  rfl

theorem PoolInv.acceptSend {s : State} (hp : PoolInv s) (body : List Byte) (hfree : s.mpl.free ≠ 0)
    (hdown : s.mpl.down < 32) : PoolInv (acceptSend body s).1 := by
  rw [poolInv_iff, holdings_acceptSend]
  exact hp.holdingsOk.sent hfree hdown

/-! ### Contexts and the inbox (R117, R122 to R124) -/

theorem holdings_discardContext {a : Nat} {st : Station} {s : State} (h : station a s = some st)
    (hc : st.context.isSome) : holdings (discardContext a s) =
      { holdings s with free := (holdings s).free + 1, up := (holdings s).up - 1,
                        contexts := Function.update (holdings s).contexts a false } := by
  have hreturned : ∀ t, holdings (returnUp t) =
      { holdings t with free := (holdings t).free + 1, up := (holdings t).up - 1 } := fun _ => rfl
  rw [discardContext_some h, if_pos hc, hreturned, holdings_setStation (station_isSome_range h)]
  rfl

/-- A context that is discarded returns its buffer (R122). -/
theorem PoolInv.discardContext {s : State} (hp : PoolInv s) (a : Nat) : PoolInv (discardContext a s) := by
  cases hst : station a s with
  | none =>
    rw [Machine.discardContext, hst]
    exact hp
  | some st =>
    by_cases hc : st.context.isSome
    · rw [poolInv_iff, holdings_discardContext hst hc]
      exact hp.holdingsOk.closed (station_isSome_range hst) ((congrArg contextOpen hst).trans hc)
    · rw [discardContext_some hst, if_neg hc]
      exact hp

/-- An entry joins the inbox (R123). -/
theorem holdings_complete (a : Nat) (bytes : List Byte) (s : State) :
    holdings (complete a bytes s) = { holdings s with inbox := (holdings s).inbox + 1 } := by
  let entry : InboxEntry := { source := a, bytes := bytes, cycle := s.cye.cycle, arrival := s.ulr.arrival }
  have hjoined : holdings { s with ulr.inbox := s.ulr.inbox ++ [entry], ulr.arrival := s.ulr.arrival + 1 } =
      { holdings s with inbox := (holdings s).inbox + 1 } := by
    have hlength : (s.ulr.inbox ++ [entry]).length = (holdings s).inbox + 1 := by
      rw [List.length_append, List.length_singleton]
      rfl
    rw [← hlength]
    rfl
  simp only [complete]
  split
  · rw [holdings_offer, holdings_countGlobal, holdings_countStation, hjoined]
  · rw [holdings_countGlobal, holdings_countStation, hjoined]

/-- The state in which a segment finds its context: without one a buffer is lent, and a first segment abandons an open one
(R117). -/
def contextReady (a : Nat) (st : Station) (seg : Segment) (s : State) : State :=
  let t := if st.context.isSome then s else lendUp s
  if seg.first ∧ st.context.isSome then countStation a .contextsAbandoned t else t

/-- A segment accepted into its context. -/
def segmentTaken (a : Nat) (st : Station) (seg : Segment) (s : State) : State :=
  onStation a (fun x => countIn .segmentsAccepted { acknowledgeIn seg.seq x with
    context := if seg.last then none else some
      { bytes := (baseContext st seg).bytes ++ seg.payload, segments := (baseContext st seg).segments + 1 } })
    (contextReady a st seg s)

theorem acceptSegment_eq (a : Nat) (st : Station) (seg : Segment) (s : State) : acceptSegment a st seg s =
    if seg.last then complete a ((baseContext st seg).bytes ++ seg.payload) (segmentTaken a st seg s)
    else segmentTaken a st seg s := rfl

section Segment
variable {a : Nat} {st : Station} {seg : Segment} {s : State}

theorem contextReady_stations (hst : station a s = some st) : (station a (contextReady a st seg s)).isSome := by
  have hlent : station a (if st.context.isSome then s else lendUp s) = some st := by
    split <;> exact hst
  simp only [contextReady]
  split
  · rw [countStation, station_onStation_same, hlent]
    rfl
  · rw [hlent]
    rfl

theorem holdings_contextReady : holdings (contextReady a st seg s) = { holdings s with
    free := (holdings s).free - (!st.context.isSome).toNat, up := (holdings s).up + (!st.context.isSome).toNat } := by
  have hlent : holdings (if st.context.isSome then s else lendUp s) = { holdings s with
      free := (holdings s).free - (!st.context.isSome).toNat, up := (holdings s).up + (!st.context.isSome).toNat } := by
    cases st.context <;> rfl
  simp only [contextReady]
  split
  · rw [holdings_countStation, hlent]
  · exact hlent

theorem holdings_segmentTaken (hst : station a s = some st) : holdings (segmentTaken a st seg s) = { holdings s with
    free := (holdings s).free - (!st.context.isSome).toNat, up := (holdings s).up + (!st.context.isSome).toNat,
    contexts := Function.update (holdings s).contexts a (!seg.last) } := by
  obtain ⟨x, hx⟩ := Option.isSome_iff_exists.mp (contextReady_stations (seg := seg) hst)
  have hopen : ∀ c : Context, (if seg.last then none else some c).isSome = !seg.last := fun c => by
    cases seg.last <;> rfl
  rw [segmentTaken, onStation_some hx, holdings_setStation (station_isSome_range hst), holdings_contextReady]
  simp only [contextOpen, Option.bind_some, countIn_context, hopen]

theorem PoolInv.acceptSegment (hp : PoolInv s) (hst : station a s = some st)
    (hfree : st.context = none → s.mpl.free ≠ 0) (hroom : seg.last = true → s.ulr.inbox.length < 16) :
    PoolInv (acceptSegment a st seg s) := by
  have hopen : (holdings s).contexts a = st.context.isSome := congrArg contextOpen hst
  have haccepted := hp.holdingsOk.accepted (station_isSome_range hst) seg.last
    (fun hc => hfree (Option.not_isSome_iff_eq_none.mp (by rw [← hopen, hc]; decide))) hroom
  rw [hopen] at haccepted
  rw [poolInv_iff, acceptSegment_eq]
  split
  · rename_i hlast
    rw [holdings_complete, holdings_segmentTaken hst]
    rw [hlast] at haccepted ⊢
    exact haccepted
  · rename_i hlast
    rw [holdings_segmentTaken hst]
    rw [Bool.eq_false_of_not_eq_true hlast] at haccepted ⊢
    exact haccepted

end Segment

theorem PoolInv.onStation {s : State} (hp : PoolInv s) {f : Station → Station}
    (hf : ∀ st, (f st).context.isSome = st.context.isSome) (a : Nat) : PoolInv (onStation a f s) :=
  hp.congr (holdings_onStation hf a s)

theorem PoolInv.answerBusy {s : State} (hp : PoolInv s) (a : Nat) : PoolInv (answerBusy a s) :=
  hp.onStation (fun _ => by rfl) a

/-- A segment lends a buffer only where one is free, and completes only into an inbox with room (R117). -/
theorem PoolInv.takeInSequence {s : State} (hp : PoolInv s) {a : Nat} {st : Station} (hst : station a s = some st)
    (seg : Segment) : PoolInv (takeInSequence a st seg s) := by
  have hbase : (if seg.first then { bytes := [], segments := 0 }
      else st.context.getD { bytes := [], segments := 0 } : Context) = baseContext st seg := rfl
  simp only [Machine.takeInSequence, hbase]
  split
  · exact hp.onStation (fun _ => by rfl) a
  · rename_i horphan
    split
    · exact (hp.discardContext a).onStation (fun _ => by rfl) a
    · split
      · exact (hp.discardContext a).onStation (fun _ => by rfl) a
      · split
        · exact (hp.answerBusy a).congr rfl
        · rename_i hroom
          split
          · exact (hp.answerBusy a).congr rfl
          · rename_i hlend
            refine hp.acceptSegment hst (fun hc hfree => ?_) fun hlast => ?_
            · have hfirst : seg.first = true := by simpa [hc] using horphan
              exact hlend ⟨hfirst, hc, hfree⟩
            · exact Nat.not_le.mp fun h => hroom ⟨hlast, h⟩

theorem PoolInv.takeData {s : State} (hp : PoolInv s) (a : Nat) (seg : Segment) : PoolInv (takeData a seg s) := by
  unfold Machine.takeData
  split
  · exact hp
  · rename_i st hst
    split
    · exact hp.takeInSequence hst seg
    · split
      · exact hp.onStation (fun _ => by rfl) a
      · exact hp.onStation (fun _ => by rfl) a

theorem PoolInv.takeFetch {s : State} (hp : PoolInv s) (tag : Byte) (body : List Byte) : PoolInv (takeFetch tag body s) := by
  unfold Machine.takeFetch
  extract_lets source
  split
  · split
    · exact hp.congr rfl
    · rename_i e he
      have hmem := List.mem_of_find?_eq_some he
      have hfetched := hp.holdingsOk.fetched (List.length_pos_of_mem hmem)
      have hlength : (s.ulr.inbox.eraseP (fetchable source)).length = (holdings s).inbox - 1 :=
        List.length_eraseP_of_mem hmem (List.find?_some he)
      rw [← hlength] at hfetched
      exact (poolInv_iff _).mpr hfetched
  · exact hp.congr rfl

/-! ### The end of a run and resets (R14, R77) -/

theorem openCount_none {contexts : Nat → Bool} (h : ∀ a, contexts a = false) : openCount contexts = 0 := by
  rw [openCount, List.countP_eq_zero]
  intro a _
  rw [h a]
  decide

/-- The end of a run returns the buffer of every open context (R14, R122). -/
theorem PoolInv.runEnded {s t : State} (hp : PoolInv s) (h : RunEnded s t) : PoolInv t := by
  obtain ⟨hstations, -, -, hulr, -, hmpl⟩ := h
  have hclosed : openContexts t = 0 := by
    rw [openContexts_eq]
    refine openCount_none fun a => ?_
    change contextOpen (station a t) = false
    rw [hstations]
    cases station a s <;> rfl
  obtain ⟨htotal, hlimit, hmessages, huplink, hinbox⟩ := hp
  unfold PoolInv
  rw [hclosed, hulr, hmpl]
  exact ⟨by dsimp only; omega, hlimit, hmessages, by dsimp only; omega, hinbox⟩

theorem poolInv_empty {s : State} (hmpl : s.mpl.free = 48 ∧ s.mpl.down = 0 ∧ s.mpl.up = 0 ∧ s.mpl.messages = [])
    (hulr : s.ulr.inbox = []) (hcontexts : ∀ a, contextOpen (station a s) = false) : PoolInv s := by
  obtain ⟨hfree, hdown, hup, hmessages⟩ := hmpl
  have hclosed : openContexts s = 0 := (openContexts_eq s).trans (openCount_none hcontexts)
  unfold PoolInv
  rw [hfree, hdown, hup, hmessages, hulr, hclosed]
  decide

end Sys2Proof.Machine
end

section
/-! The queues in order when a segment goes out or is judged, when a run ends, and when a station is enrolled or retired
(R40, R43, R71, R85, R88, R90, R92 to R94, R96). -/

namespace Sys2Proof.Machine

-- One proof after another, not in parallel: the whole text compiles under a bound on memory.
set_option Elab.async false

/-! ### A segment goes out (R88, R90) -/

theorem HeadRecordOk.replaced {ρ : Type} {handleOf : ρ → Nat} {Ok Ok' : ρ → Prop} {queue : List Nat} {r r' : ρ}
    (h : HeadRecordOk handleOf Ok queue (some r)) (hhandle : handleOf r' = handleOf r) (hok : Ok r → Ok' r') :
    HeadRecordOk handleOf Ok' queue (some r') := by
  refine ⟨?_, fun x hx => ?_⟩
  · rw [Option.map_some, hhandle, ← h.head]
    rfl
  · cases hx
    exact hok (h.ok r rfl)

/-- The in-flight record of one address is replaced by one in order, of the same message. -/
theorem QueueInv.onFlight {s : State} (hi : QueueInv s) {a : Nat} {st : Station} {r : InFlight} (hst : station a s = some st)
    (hr : st.inFlight = some r) {f : Station → Station} (hqueue : ∀ x, (f x).queue = x.queue) {r' : InFlight}
    (hnew : (f st).inFlight = some r') (hhandle : r'.handle = r.handle)
    (hok : FlightOk a s.mpl.messages r → FlightOk a s.mpl.messages r') : QueueInv (Machine.onStation a f s) := by
  refine hi.onStation a hqueue fun x hx hrecord => ?_
  cases hst.symm.trans hx
  rw [hr] at hrecord
  rw [hnew]
  exact hrecord.replaced hhandle hok

/-- What has been sent is started and has its sequence (R88). -/
theorem FlightOk.sentAs {a : Nat} {ms : List Message} {r : InFlight} (h : FlightOk a ms r) (q : Seq) :
    FlightOk a ms { r with seqSent := some q, started := true, phase := .awaitingAck } :=
  { h with
    fresh := fun e => by cases e
    sent := fun _ => rfl }

theorem QueueInv.sendData {s : State} (hi : QueueInv s) {a : Nat} {st : Station} {r : InFlight}
    (hst : station a s = some st) (hr : st.inFlight = some r) (m : Message) : QueueInv (sendData a st r m s) := by
  simp only [Machine.sendData]
  refine QueueInv.congr ?_ (delivery_handOver _ _)
  split
  · exact hi.onFlight hst hr (fun _ => by rfl) rfl rfl fun hok => hok.sentAs _
  · exact hi.onFlight hst hr (fun _ => by rfl) rfl rfl fun hok => hok.sentAs _

theorem QueueInv.stationDownSlot {s : State} (hi : QueueInv s) (a : Nat) : QueueInv (stationDownSlot a s) := by
  unfold Machine.stationDownSlot
  split
  · exact hi.congr rfl
  · rename_i st hst
    split
    · split
      · rename_i r hr
        split
        · split
          · exact hi.sendData hst hr _
          · exact hi.congr rfl
        · exact hi.congr rfl
      · exact hi.congr rfl
    · exact hi.congr rfl

/-- A broadcast record after a send that leaves a segment to send (R90). -/
theorem BroadcastFlightOk.afterSend {ms : List Message} {r : BroadcastInFlight} (h : BroadcastFlightOk ms r) (repeats : Nat)
    (q : Seq) (hmore : r.sends = repeats → ∀ m ∈ ms, m.handle = r.handle → m.dest = 31 →
      r.index + 1 ≠ segmentCount m.bytes.length) : BroadcastFlightOk ms (afterBroadcastSend repeats q r) := by
  unfold afterBroadcastSend
  split
  · rename_i hsends
    refine ⟨(fun e => by cases e), fun m hm hh hd => ?_⟩
    exact Nat.lt_of_le_of_ne (h.index m hm hh hd) (hmore (Nat.succ.inj hsends) m hm hh hd)
  · exact ⟨(fun e => by cases e), h.index⟩

/-- The record of a message that has left its queue does not matter (R86). -/
theorem headRecord_gone {queue : List Nat} {r r' : BroadcastInFlight} (hr : r.handle ∉ queue) (hsame : r'.handle = r.handle) :
    headRecord BroadcastInFlight.handle freshBroadcast queue (some r') =
      headRecord BroadcastInFlight.handle freshBroadcast queue (some r) := by
  cases queue with
  | nil => rfl
  | cons k rest =>
    have hne : r.handle ≠ k := fun e => hr (e ▸ List.mem_cons_self)
    have hne' : r'.handle ≠ k := hsame ▸ hne
    simp only [headRecord, if_neg hne, if_neg hne']

/-- A broadcast message ends alike whatever its record has come to (R90, R97). -/
theorem endMessage_broadcast_record {s : State} (hi : QueueInv s) {m : Message} {r r' : BroadcastInFlight}
    (hr : s.dlv.inFlight = some r) (hsame : r'.handle = r.handle) (hm : message r.handle s = some m) (hd : m.dest = 31)
    (res : Result) (w : Reason) :
    endMessage r.handle res w { s with dlv.inFlight := some r' } = endMessage r.handle res w s := by
  have hm' : message r.handle { s with dlv.inFlight := some r' } = some m := hm
  have hqueue : queueOf m.dest { s with dlv.inFlight := some r' } = queueOf m.dest s := by rw [hd]; rfl
  have hgone : r.handle ∉ (queueOf m.dest s).erase r.handle := fun h => by
    rw [hi.erase_eq, queueWithout, List.mem_filter] at h
    exact of_decide_eq_true h.2 rfl
  have hset : setQueue m.dest ((queueOf m.dest s).erase r.handle) { s with dlv.inFlight := some r' } =
      setQueue m.dest ((queueOf m.dest s).erase r.handle) s := by
    have hd' : m.dest = Config.broadcast := hd
    simp only [setQueue, if_pos hd', hr, headRecord_gone hgone hsame]
  rw [endMessage_eq hm, endMessage_eq hm', hqueue, hset]

/-- The message of the broadcast record is a broadcast message (R86). -/
theorem QueueInv.broadcast_dest {s : State} (hi : QueueInv s) {r : BroadcastInFlight} {m : Message}
    (hr : s.dlv.inFlight = some r) (hm : message r.handle s = some m) : m.dest = 31 := by
  have hhead := hi.broadcast.head
  rw [hr] at hhead
  obtain ⟨n, hn, hd⟩ := hi.message_of_queued (d := 31) (List.mem_of_mem_head? hhead.symm)
  rw [← hd, Option.some.inj (hn.symm.trans hm)]

theorem QueueInv.broadcastDownSlot {s : State} (hi : QueueInv s) : QueueInv (broadcastDownSlot s) := by
  cases hr : s.dlv.inFlight with
  | none =>
    rw [broadcastDownSlot_silent hr]
    exact hi.congr rfl
  | some r =>
    cases hm : message r.handle s with
    | none =>
      simp only [Machine.broadcastDownSlot, hr, hm]
      exact hi.congr rfl
    | some m =>
      obtain ⟨hmem, hh⟩ := message_some hm
      let q := r.seqSent.getD s.dlv.next
      let record := afterBroadcastSend s.rex.config.repeats q r
      have hrecord : record.handle = r.handle := afterBroadcastSend_handle _ _ r
      have hsent : QueueInv (broadcastSent r m r s) :=
        hi.congr (delivery_congr rfl rfl (fun _ => rfl) (fun _ => rfl) hr.symm)
      rw [broadcastDownSlot_send hr hm]
      dsimp only
      split
      · have hended := hsent.endMessage r.handle .delivered .none
        rw [← endMessage_broadcast_record (r' := record) hsent rfl hrecord hm (hi.broadcast_dest hr hm)] at hended
        exact hended
      · rename_i hmore
        refine hi.withBroadcast rfl rfl rfl ?_
        have hheld := hi.broadcast
        rw [hr] at hheld
        refine hheld.replaced hrecord fun hok => hok.afterSend _ _ fun hsends n hn hnh _ hlast => hmore ⟨hsends, ?_⟩
        rw [← hi.message_eq hn hmem (hnh.trans hh.symm)]
        exact hlast

/-! ### A segment is judged (R92 to R94) -/

theorem QueueInv.onInFlight {s : State} (hi : QueueInv s) {a : Nat} {st : Station} {r : InFlight}
    (hst : station a s = some st) (hr : st.inFlight = some r) (c : StationCounter) {f : InFlight → InFlight}
    (hhandle : (f r).handle = r.handle) (hok : FlightOk a s.mpl.messages r → FlightOk a s.mpl.messages (f r)) :
    QueueInv (onInFlight a f (countStation a c s)) := by
  have heq := onInFlight_countStation hst hr c f
  rw [heq, ← onStation_some (f := fun x => countIn c { x with inFlight := some (f r) }) hst]
  exact hi.onFlight hst hr (fun _ => by rfl) rfl hhandle hok

theorem awaiting_message {a : Nat} {r : InFlight} {m : Message} {s : State} (h : awaiting a s = some (r, m)) :
    r.phase = .awaitingAck ∧ message r.handle s = some m := by
  obtain ⟨st, hst, hr⟩ := awaiting_some h
  simp only [awaiting, hst, hr] at h
  split at h
  · rename_i hphase
    split at h
    · rename_i n hn
      cases h
      exact ⟨hphase, hn⟩
    · cases h
  · cases h

/-- What awaits its acknowledgement has been started (R88, R91). -/
theorem FlightOk.started {a : Nat} {ms : List Message} {r : InFlight} (h : FlightOk a ms r) (hphase : r.phase = .awaitingAck) :
    r.started = true := by
  refine Bool.eq_true_of_not_eq_false fun hnot => ?_
  have hfresh := h.fresh hnot
  rw [hfresh] at hphase
  cases hphase

/-- A judged record goes out again, or its next segment does. -/
theorem FlightOk.judged {a : Nat} {ms : List Message} {r r' : InFlight} (h : FlightOk a ms r) (hphase : r.phase = .awaitingAck)
    (hkept : r'.handle = r.handle ∧ r'.started = r.started ∧ r'.phase = .ready) (hbusy : r'.busy < 16)
    (hindex : ∀ m ∈ ms, m.handle = r.handle → m.dest = a → r'.index < segmentCount m.bytes.length) : FlightOk a ms r' := by
  obtain ⟨hhandle, hstarted, hready⟩ := hkept
  refine ⟨fun hnot => ?_, fun e => ?_, hbusy, fun m hm hh => hindex m hm (hh.trans hhandle)⟩
  · cases ((hstarted.trans (h.started hphase)).symm.trans hnot)
  · cases hready.symm.trans e

section Judged
variable {a : Nat} {st : Station} {r : InFlight} {m : Message} {s : State}

theorem QueueInv.judgeAcked (hi : QueueInv s) (hst : station a s = some st) (hr : st.inFlight = some r)
    (hphase : r.phase = .awaitingAck) (hm : message r.handle s = some m) : QueueInv (judgeAcked a r m s) := by
  obtain ⟨hmem, hh⟩ := message_some hm
  simp only [Machine.judgeAcked]
  split
  · exact (hi.congr (delivery_countStation _ _ _)).endMessage _ _ _
  · rename_i hnext
    refine hi.onInFlight hst hr _ rfl fun hok => hok.judged hphase ⟨rfl, rfl, rfl⟩ (Nat.succ_pos _) fun n hn hnh hd => ?_
    refine Nat.lt_of_le_of_ne (hok.index n hn hnh hd) fun e => hnext ?_
    rw [← hi.message_eq hn hmem (hnh.trans hh.symm)]
    exact e

theorem QueueInv.judgeBusy (hi : QueueInv s) (hst : station a s = some st) (hr : st.inFlight = some r)
    (hphase : r.phase = .awaitingAck) : QueueInv (judgeBusy a r s) := by
  simp only [Machine.judgeBusy]
  split
  · exact (hi.congr (delivery_countStation _ _ _)).endMessage _ _ _
  · rename_i hlimit
    refine hi.onInFlight hst hr _ rfl fun hok => hok.judged hphase ⟨rfl, rfl, rfl⟩ ?_ hok.index
    exact Nat.lt_of_le_of_ne hok.busy hlimit

theorem QueueInv.judgeUnanswered (hi : QueueInv s) (hst : station a s = some st) (hr : st.inFlight = some r)
    (hphase : r.phase = .awaitingAck) : QueueInv (judgeUnanswered a r s) := by
  simp only [Machine.judgeUnanswered]
  split
  · exact hi.onInFlight hst hr _ rfl fun hok => hok.judged hphase ⟨rfl, rfl, rfl⟩ (Nat.succ_pos _) hok.index
  · exact (hi.congr (delivery_countStation _ _ _)).endMessage _ _ _

theorem QueueInv.takeAnswer (hi : QueueInv s) (a : Nat) (ans : Option Answer) : QueueInv (takeAnswer a ans s) := by
  unfold Machine.takeAnswer
  split
  · exact hi
  · rename_i r m haw
    obtain ⟨st, hst, hr⟩ := awaiting_some haw
    obtain ⟨hphase, hm⟩ := awaiting_message haw
    split
    · split
      · exact hi.judgeAcked hst hr hphase hm
      · split
        · exact hi.judgeBusy hst hr hphase
        · exact hi.judgeUnanswered hst hr hphase
    · exact hi.judgeUnanswered hst hr hphase

end Judged

/-! ### Rewinds (R14, R36, R71, R96) -/

theorem QueueInv.swap {s : State} (hi : QueueInv s) : QueueInv (swap s) := by
  have hmpl : (Machine.swap s).mpl = s.mpl := by rw [swap_frame]
  have hstation : ∀ {α : Type} (g : Station → α), (∀ st, g (rewindStation st) = g st) →
      ∀ a, (station a (Machine.swap s)).map g = (station a s).map g := by
    intro α g hg a
    rw [station_swap]
    split
    · rfl
    · rw [Option.map_map]
      exact congrArg (fun k => Option.map k (station a s)) (funext hg)
  refine hi.reflight (by rw [hmpl]) (by rw [hmpl]) (fun d => ?_) (fun a ha => ?_) ?_
  · exact queueOf_congr (hstation Station.queue (fun _ => rfl) d) (by rw [swap_dlv]; split <;> rfl)
  · rw [flightOf, station_swap]
    split
    · exact hi.flight ha
    · have hrewound : ((station a s).map rewindStation).bind Station.inFlight =
          (flightOf a s).map fun r => freshInFlight r.handle := by
        cases hst : station a s with
        | none => rw [flightOf_unenrolled hst]; rfl
        | some st => rw [flightOf_station hst]; rfl
      rw [hrewound]
      exact hi.rewound (hi.flight ha)
  · rw [swap_dlv]
    split
    · exact hi.broadcast
    · exact hi.rewoundBroadcast

theorem QueueInv.runEnded {s t : State} (hi : QueueInv s) (h : RunEnded s t) : QueueInv t := by
  obtain ⟨hstations, -, hdlv, -, -, hmpl⟩ := h
  refine hi.reflight (by rw [hmpl]) (by rw [hmpl]) (fun d => queueOf_congr ?_ (by rw [hdlv])) (fun a ha => ?_) ?_
  · rw [hstations, Option.map_map]
    rfl
  · have hrewound : flightOf a t = (flightOf a s).map fun r => freshInFlight r.handle := by
      rw [flightOf, hstations]
      cases hst : station a s with
      | none => rw [flightOf_unenrolled hst]; rfl
      | some st => rw [flightOf_station hst]; rfl
    rw [hrewound]
    exact hi.rewound (hi.flight ha)
  · rw [hdlv]
    exact hi.rewoundBroadcast

/-! ### Records that come and go (R40, R43) -/

/-- A record is written or removed with the queue and the in-flight record it had. -/
theorem delivery_setStation {a : Nat} {r : Option Station} {s : State}
    (hqueue : (r.map Station.queue).getD [] = ((station a s).map Station.queue).getD [])
    (hflight : r.bind Station.inFlight = flightOf a s) : delivery (setStation a r s) = delivery s := by
  by_cases ha : 1 ≤ a ∧ a ≤ 30
  · refine delivery_congr (by rw [setStation_mpl]) (by rw [setStation_mpl]) (fun d => ?_) (fun b => ?_)
      (by rw [setStation_dlv])
    · rw [queueOf_eq, queueOf_eq, setStation_dlv]
      by_cases hd : d = a
      · subst hd
        rw [station_setStation_same ha, hqueue]
      · rw [station_setStation_other hd]
    · by_cases hb : b = a
      · subst hb
        rw [flightOf, station_setStation_same ha, hflight]
      · rw [flightOf, station_setStation_other hb, flightOf]
  · rw [setStation, if_neg (by simpa [stationAddress] using ha)]

theorem QueueInv.enrolled {s : State} (hi : QueueInv s) {a : Nat} (hst : station a s = none) (cls : StationClass)
    (mode : NoticeMode) (hold : Bool) : QueueInv (setStation a (some (newStation cls mode hold)) s) := by
  refine hi.congr (delivery_setStation ?_ ?_)
  · rw [hst]
    rfl
  · rw [flightOf_unenrolled hst]
    rfl

/-- A station whose messages have all ended leaves no queue behind (R43). -/
theorem QueueInv.retired {s : State} (hi : QueueInv s) {a : Nat} {st : Station} (hst : station a s = some st) :
    QueueInv (retired a st s) := by
  have hrecord := (endQueue_ends .retired true (hi.queued hst)).record
  have hgone := station_discardContext hrecord
  have hended : QueueInv (Machine.discardContext a (Machine.endQueue st.queue .retired true s)) :=
    (hi.endQueue st.queue .retired true).congr (delivery_discardContext _ _)
  refine hended.congr (delivery_setStation ?_ ?_)
  · rw [hgone, Option.map_some, queueEndRecord_queue]
    rfl
  · rw [flightOf_station hgone, queueEndRecord_inFlight]
    rfl

theorem queueInv_empty {s : State} (hmessages : s.mpl.messages = [])
    (hcounter : 1 ≤ s.mpl.handleCounter ∧ s.mpl.handleCounter ≤ 65535) (hdlv : s.dlv.queue = [] ∧ s.dlv.inFlight = none)
    (hstations : ∀ a st, station a s = some st → st.queue = [] ∧ st.inFlight = none) : QueueInv s := by
  obtain ⟨hqueue, hflight⟩ := hdlv
  have hempty : ∀ d, queueOf d s = [] := fun d => by
    rw [queueOf_eq, hqueue]
    split
    · rfl
    · cases hst : station d s with
      | none => rfl
      | some st => exact (hstations d st hst).1
  have hflights : ∀ a, flightOf a s = none := fun a => by
    cases hst : station a s with
    | none => exact flightOf_unenrolled hst
    | some st => exact (flightOf_station hst).trans (hstations a st hst).2
  refine queueInv_of_parts hmessages hcounter (fun _ hm => by cases hm) (fun _ hm => by cases hm) (fun d => ?_)
    (fun d => ?_) (fun a _ => ?_) ?_
  · rw [hempty]
    exact Nat.zero_le _
  · rw [hempty]
    exact ⟨List.nodup_nil, List.nodup_nil, fun k => ⟨(fun h => by cases h), fun ⟨_, hm, _⟩ => by cases hm⟩⟩
  · rw [hempty, hflights]
    exact ⟨rfl, fun _ e => by cases e⟩
  · rw [hqueue, hflight]
    exact ⟨rfl, fun _ e => by cases e⟩

end Sys2Proof.Machine
end

section
/-! The pool and the queues in order along every step: the two invariants together, block by block, and the settling of O55
(R77, R79, R80, R84 to R86, R96, R108). -/

namespace Sys2Proof.Machine

-- One proof after another, not in parallel: the whole text compiles under a bound on memory.
set_option Elab.async false

/-! ### The two invariants together -/

/-- The pool's counts agree with their holders, and the queues are in order. -/
structure Stocked (s : State) : Prop where
  pool : PoolInv s
  queues : QueueInv s

/-- What the two invariants read. -/
def stock (s : State) : Delivery × Holdings := (delivery s, holdings s)

theorem Stocked.congr {s t : State} (h : Stocked s) (e : stock t = stock s) : Stocked t := by
  obtain ⟨hdelivery, hholdings⟩ := Prod.ext_iff.mp e
  exact ⟨h.pool.congr hholdings, h.queues.congr hdelivery⟩

theorem stock_eq {s t : State} (hdelivery : delivery t = delivery s) (hholdings : holdings t = holdings s) :
    stock t = stock s := Prod.ext hdelivery hholdings

@[simp] theorem stock_offer (n : Notice) (s : State) : stock (offer n s) = stock s :=
  stock_eq (delivery_offer n s) (holdings_offer n s)
@[simp] theorem stock_arbitrate (s : State) : stock (arbitrate s) = stock s :=
  stock_eq (delivery_arbitrate s) (holdings_of_blocks (arbitrate_stt s) (arbitrate_mpl s) (arbitrate_ulr s))
@[simp] theorem stock_joinEither (a b : Option Frame) (s : State) : stock (joinEither a b s) = stock s :=
  stock_eq (delivery_joinEither a b s)
    (holdings_of_blocks (joinEither_stt a b s) (joinEither_mpl a b s) (joinEither_ulr a b s))
@[simp] theorem stock_countGlobal (c : GlobalCounter) (s : State) : stock (countGlobal c s) = stock s := rfl
@[simp] theorem stock_reply (kind tag : Byte) (st : Status) (items : List Byte) (s : State) :
    stock (reply kind tag st items s) = stock s := rfl
@[simp] theorem stock_setAdmission (r : AdmitResult) (e : Nat) (s : State) : stock (setAdmission r e s) = stock s := rfl
@[simp] theorem stock_removeStranger (a : Nat) (s : State) : stock (removeStranger a s) = stock s := rfl

/-- A change of a record that leaves its queue and its in-flight record alone, and its context as open as it was. -/
def Spares (f : Station → Station) : Prop :=
  ∀ st, (f st).queue = st.queue ∧ (f st).inFlight = st.inFlight ∧ (f st).context.isSome = st.context.isSome

theorem stock_onStation {f : Station → Station} (hf : Spares f) (a : Nat) (s : State) :
    stock (onStation a f s) = stock s :=
  stock_eq (delivery_onStation (fun st => (hf st).1) (fun st => (hf st).2.1) a s)
    (holdings_onStation (fun st => (hf st).2.2) a s)

theorem stock_onStations {f : Station → Station} (hf : Spares f) (s : State) : stock (onStations f s) = stock s :=
  stock_eq (delivery_onStations (fun st => (hf st).1) (fun st => (hf st).2.1) s)
    (holdings_onStations (fun st => (hf st).2.2) s)

@[simp] theorem stock_countStation (a : Nat) (c : StationCounter) (s : State) : stock (countStation a c s) = stock s :=
  stock_onStation (fun _ => by exact ⟨rfl, rfl, rfl⟩) a s

section Blocks
variable {s : State}

theorem Stocked.onStation (h : Stocked s) {f : Station → Station} (hf : Spares f) (a : Nat) : Stocked (onStation a f s) :=
  h.congr (stock_onStation hf a s)

theorem Stocked.countStation (h : Stocked s) (a : Nat) (c : StationCounter) : Stocked (countStation a c s) :=
  h.congr (stock_countStation a c s)

/-! ### The end of messages and contexts (R97, R122) -/

theorem Stocked.endMessage (h : Stocked s) (k : Nat) (r : Result) (w : Reason) : Stocked (endMessage k r w s) :=
  ⟨h.pool.endMessage k r w, h.queues.endMessage k r w⟩

theorem Stocked.endMessages (h : Stocked s) (ks : List Nat) (r : Result) (w : Reason) : Stocked (endMessages ks r w s) :=
  foldl_keeps (fun _ k hu => hu.endMessage k r w) ks h

theorem Stocked.endQueue (h : Stocked s) (queue : List Nat) (w : Reason) (behind : Bool) :
    Stocked (endQueue queue w behind s) := by
  unfold Machine.endQueue
  split
  · exact h
  · dsimp only
    split
    · exact (h.endMessage _ _ _).endMessages _ _ _
    · exact h.endMessage _ _ _

theorem Stocked.discardContext (h : Stocked s) (a : Nat) : Stocked (discardContext a s) :=
  ⟨h.pool.discardContext a, h.queues.congr (delivery_discardContext a s)⟩

/-! ### DOWN slots and their judgement (R87 to R94) -/

/-- The in-flight records are not the pool's. -/
theorem holdings_onInFlight (a : Nat) (f : InFlight → InFlight) (s : State) : holdings (onInFlight a f s) = holdings s :=
  holdings_onStation (fun _ => by rfl) a s

theorem PoolInv.takeAnswer (hp : PoolInv s) (a : Nat) (ans : Option Answer) : PoolInv (takeAnswer a ans s) := by
  have hcounted : ∀ c, PoolInv (Machine.countStation a c s) := fun c => hp.congr (holdings_countStation a c s)
  have hagain : ∀ c f, PoolInv (Machine.onInFlight a f (Machine.countStation a c s)) := fun c f =>
    (hcounted c).congr (holdings_onInFlight a f _)
  have hunanswered : ∀ r, PoolInv (judgeUnanswered a r s) := fun r => by
    simp only [judgeUnanswered]
    split
    · exact hagain _ _
    · exact (hcounted _).endMessage _ _ _
  unfold Machine.takeAnswer
  split
  · exact hp
  · split
    · split
      · simp only [judgeAcked]
        split
        · exact (hcounted _).endMessage _ _ _
        · exact hagain _ _
      · split
        · simp only [judgeBusy]
          split
          · exact (hcounted _).endMessage _ _ _
          · exact hagain _ _
        · exact hunanswered _
    · exact hunanswered _

theorem Stocked.takeAnswer (h : Stocked s) (a : Nat) (ans : Option Answer) : Stocked (takeAnswer a ans s) :=
  ⟨h.pool.takeAnswer a ans, h.queues.takeAnswer a ans⟩

theorem holdings_sendData (a : Nat) (st : Station) (r : InFlight) (m : Message) (s : State) :
    holdings (sendData a st r m s) = holdings s := by
  simp only [sendData]
  refine (holdings_of_blocks rfl rfl rfl : holdings (handOver _ _) = holdings _).trans ?_
  split
  · exact holdings_onStation (fun _ => by rfl) a s
  · exact holdings_onStation (fun _ => by rfl) a s

theorem PoolInv.stationDownSlot (hp : PoolInv s) (a : Nat) : PoolInv (stationDownSlot a s) := by
  unfold Machine.stationDownSlot
  split
  · exact hp.congr rfl
  · split
    · split
      · split
        · split
          · exact hp.congr (holdings_sendData _ _ _ _ _)
          · exact hp.congr rfl
        · exact hp.congr rfl
      · exact hp.congr rfl
    · exact hp.congr rfl

theorem PoolInv.broadcastDownSlot (hp : PoolInv s) : PoolInv (broadcastDownSlot s) := by
  cases hr : s.dlv.inFlight with
  | none =>
    rw [broadcastDownSlot_silent hr]
    exact hp.congr rfl
  | some r =>
    cases hm : message r.handle s with
    | none =>
      simp only [Machine.broadcastDownSlot, hr, hm]
      exact hp.congr rfl
    | some m =>
      rw [broadcastDownSlot_send hr hm]
      have hsent : ∀ record, PoolInv (broadcastSent r m record s) := fun _ => hp.congr rfl
      dsimp only
      split
      · exact (hsent _).endMessage _ _ _
      · exact hsent _

theorem Stocked.downSlot (h : Stocked s) (owner : Nat) : Stocked (downSlot owner s) := by
  unfold Machine.downSlot
  split
  · exact ⟨h.pool.broadcastDownSlot, h.queues.broadcastDownSlot⟩
  · exact ⟨h.pool.stationDownSlot owner, h.queues.stationDownSlot owner⟩

theorem Stocked.startSlot (h : Stocked s) : Stocked (startSlot s) := by
  simp only [Machine.startSlot]
  split
  · exact h.congr rfl
  · refine Stocked.downSlot ?_ _
    exact h.congr rfl
  · exact h.congr rfl
  · exact h.congr rfl

/-! ### UP slots (R109 to R123) -/

theorem delivery_complete (a : Nat) (bytes : List Byte) (s : State) : delivery (complete a bytes s) = delivery s := by
  simp only [complete]
  split
  · rw [delivery_offer, delivery_countGlobal, delivery_countStation]
    rfl
  · rw [delivery_countGlobal, delivery_countStation]
    rfl

theorem delivery_acceptSegment (a : Nat) (st : Station) (seg : Segment) (s : State) :
    delivery (acceptSegment a st seg s) = delivery s := by
  have hready : delivery (contextReady a st seg s) = delivery s := by
    simp only [contextReady]
    split
    · rw [delivery_countStation]
      split <;> rfl
    · split <;> rfl
  have htaken : delivery (segmentTaken a st seg s) = delivery s :=
    (delivery_onStation (fun _ => by rfl) (fun _ => by rfl) a _).trans hready
  rw [acceptSegment_eq]
  split
  · rw [delivery_complete, htaken]
  · exact htaken

/-- DATA from a station does not reach the queues (R116, R117). -/
theorem delivery_takeInSequence (a : Nat) (st : Station) (seg : Segment) (s : State) :
    delivery (takeInSequence a st seg s) = delivery s := by
  have hanswered : ∀ k t, delivery (Machine.onStation a (fun x => countIn k (acknowledgeIn seg.seq x)) t) = delivery t :=
    fun k t => delivery_onStation (fun _ => by rfl) (fun _ => by rfl) a t
  have hbusy : delivery (answerBusy a s) = delivery s := delivery_onStation (fun _ => by rfl) (fun _ => by rfl) a s
  have hbase : (if seg.first then { bytes := [], segments := 0 }
      else st.context.getD { bytes := [], segments := 0 } : Context) = baseContext st seg := rfl
  simp only [takeInSequence, hbase]
  split
  · exact hanswered _ s
  · split
    · rw [hanswered, delivery_discardContext]
    · split
      · rw [hanswered, delivery_discardContext]
      · split
        · rw [delivery_countGlobal, hbusy]
        · split
          · rw [delivery_countGlobal, hbusy]
          · exact delivery_acceptSegment a st seg s

theorem delivery_takeData (a : Nat) (seg : Segment) (s : State) : delivery (takeData a seg s) = delivery s := by
  unfold takeData
  split
  · rfl
  · split
    · exact delivery_takeInSequence a _ seg s
    · split
      · exact delivery_onStation (fun _ => by rfl) (fun _ => by rfl) a s
      · exact delivery_onStation (fun _ => by rfl) (fun _ => by rfl) a s

theorem Stocked.takeData (h : Stocked s) (a : Nat) (seg : Segment) : Stocked (takeData a seg s) :=
  ⟨h.pool.takeData a seg, h.queues.congr (delivery_takeData a seg s)⟩

theorem Stocked.judgeCurrent (h : Stocked s) (a : Nat) (st : Station) (seg : Segment) :
    Stocked (judgeCurrent a st seg s) := by
  simp only [Machine.judgeCurrent]
  split
  · split
    · have hchoice : Stocked { s with choices := s.choices + 1 } := h.congr rfl
      split
      · split
        · exact (hchoice.takeData a seg).takeAnswer a _
        · exact (hchoice.takeAnswer a _).takeData a seg
      · exact h.takeData a seg
    · exact (h.countStation a _).takeAnswer a _
  · exact h.takeAnswer a _

theorem Stocked.judgeGood (h : Stocked s) (a : Nat) (st : Station) (seg : Segment) : Stocked (judgeGood a st seg s) := by
  unfold Machine.judgeGood
  split
  · exact (h.countStation a _).takeAnswer a _
  · split
    · exact (h.countStation a _).takeAnswer a _
    · split
      · exact (h.countStation a _).takeAnswer a _
      · exact (h.onStation (fun _ => by exact ⟨rfl, rfl, rfl⟩) a).judgeCurrent a st seg

theorem Stocked.judgeUpSlot (h : Stocked s) (a : Nat) (cls : RxClass) : Stocked (judgeUpSlot a cls s) := by
  unfold Machine.judgeUpSlot
  split
  · cases cls with
    | good _ => exact h.congr rfl
    | silent | late | collided | malformed | crcBad => exact h
  · cases cls with
    | good seg => exact h.judgeGood a _ seg
    | silent | late | collided | malformed | crcBad => exact (h.countStation a _).takeAnswer a _

/-! ### ADMIT slots (R64 to R71) -/

theorem stock_addStranger (a : Nat) (cls : Byte) (why : StrangerReason) (s : State) :
    stock (addStranger a cls why s) = stock s := by
  unfold addStranger
  split
  · rfl
  · rw [stock_offer]
    rfl

/-- A restart rewinds the station's in-flight message (R71). -/
theorem Stocked.restarted (h : Stocked s) (a : Nat) :
    Stocked (Machine.onStation a (fun x => countIn .restarts (countIn .joinsAccepted (rewindStation (joined x)))) s) := by
  refine ⟨h.pool.onStation (fun _ => by rfl) a, h.queues.onStation a (fun _ => by rfl) fun st _ hrecord => ?_⟩
  exact h.queues.rewound hrecord

theorem Stocked.acceptJoin (h : Stocked s) (a : Nat) (cls : Byte) (st : Station) : Stocked (acceptJoin a cls st s) := by
  have ht : Stocked (setAdmission .accepted a s) := h.congr rfl
  simp only [Machine.acceptJoin]
  split
  · exact (ht.onStation (fun _ => by exact ⟨rfl, rfl, rfl⟩) a).congr (stock_offer _ _)
  · exact ht.onStation (fun _ => by exact ⟨rfl, rfl, rfl⟩) a
  · exact ((ht.restarted a).discardContext a).congr (stock_offer _ _)

theorem Stocked.resolveAdmit (h : Stocked s) (cls : RxClass) : Stocked (resolveAdmit cls s) := by
  cases cls with
  | silent | late | collided | malformed | crcBad => exact h.congr rfl
  | good seg =>
    simp only [Machine.resolveAdmit]
    split
    · unfold resolveJoin
      split
      · refine h.congr ?_
        rw [stock_countGlobal, stock_addStranger, stock_setAdmission]
      · split
        · exact h.acceptJoin _ _ _
        · refine h.congr ?_
          rw [stock_countStation, stock_addStranger, stock_setAdmission]
    · exact h.congr rfl

/-! ### Presence (R48 to R53) -/

theorem Stocked.lose (h : Stocked s) (a : Nat) (st : Station) : Stocked (lose a st s) := by
  have hcounted : Stocked (countGlobal .stationsLost (Machine.countStation a .losses s)) :=
    (h.countStation a .losses).congr (stock_countGlobal _ _)
  simp only [Machine.lose]
  refine (Stocked.endQueue ?_ _ _ _).discardContext a
  split
  · exact hcounted.congr (stock_offer _ _)
  · exact hcounted

theorem Stocked.evaluateHeard (h : Stocked s) (a : Nat) (st : Station) : Stocked (evaluateHeard a st s) := by
  have ht : Stocked (Machine.onStation a (fun x => countIn .cyclesHeard { x with miss := 0 }) s) :=
    h.onStation (fun _ => by exact ⟨rfl, rfl, rfl⟩) a
  simp only [Machine.evaluateHeard]
  split
  · exact ht.onStation (fun _ => by exact ⟨rfl, rfl, rfl⟩) a
  · split
    · have hgain := ht.onStation (f := fun x => countIn .gains
        { x with good := min (st.good + 1) s.rex.config.lockIn, presence := .present }) (fun _ => by exact ⟨rfl, rfl, rfl⟩) a
      split
      · exact (hgain.congr (stock_countGlobal .stationsGained _)).congr (stock_offer _ _)
      · exact hgain.congr (stock_countGlobal _ _)
    · exact ht.onStation (fun _ => by exact ⟨rfl, rfl, rfl⟩) a
  · exact ht.onStation (fun _ => by exact ⟨rfl, rfl, rfl⟩) a

theorem Stocked.evaluateMissed (h : Stocked s) (a : Nat) (st : Station) : Stocked (evaluateMissed a st s) := by
  simp only [Machine.evaluateMissed]
  have ht := h.onStation (f := fun x => countIn .cyclesMissed
    { x with good := 0, miss := min (st.miss + 1) s.rex.config.lockOut }) (fun _ => by exact ⟨rfl, rfl, rfl⟩) a
  split
  · split
    · exact ht
    · exact ht.onStation (fun _ => by exact ⟨rfl, rfl, rfl⟩) a
    · exact (ht.onStation (fun _ => by exact ⟨rfl, rfl, rfl⟩) a).lose a st
  · exact ht

theorem Stocked.evaluate (h : Stocked s) (b : Bank) (a : Nat) : Stocked (evaluate b a s) := by
  unfold Machine.evaluate
  split
  · exact h
  · split
    · split
      · exact h.evaluateHeard a _
      · exact h.evaluateMissed a _
    · exact h

theorem Stocked.evaluatePresence (h : Stocked s) : Stocked (evaluatePresence s) :=
  (foldl_keeps (fun _ a hu => hu.evaluate s.sbk.active a) _ h).congr (stock_onStations (fun _ => by exact ⟨rfl, rfl, rfl⟩) _)

/-! ### The swap and the boundaries of the engine (R7 to R12, R14, R34) -/

theorem holdings_swap (s : State) : holdings (swap s) = holdings s := by
  have hcontexts : ∀ a, contextOpen (station a (swap s)) = contextOpen (station a s) := fun a => by
    rw [station_swap]
    split
    · rfl
    · cases station a s <;> rfl
  have hmpl : (swap s).mpl = s.mpl := by rw [swap_frame]
  have hulr : (swap s).ulr = s.ulr := by rw [swap_frame]
  simp only [holdings, hcontexts, hmpl, hulr]

theorem Stocked.swap (h : Stocked s) : Stocked (swap s) := ⟨h.pool.congr (holdings_swap s), h.queues.swap⟩

theorem Stocked.swapPending (h : Stocked s) : Stocked (swapPending s) := by
  unfold Machine.swapPending
  split
  · exact h.swap
  · exact h

theorem Stocked.completeStop (h : Stocked s) : Stocked (completeStop s) :=
  ⟨h.pool.runEnded (runEnded_completeStop s), h.queues.runEnded (runEnded_completeStop s)⟩

theorem stock_beginCycle (cycle : Byte) (s : State) : stock (beginCycle cycle s) = stock s := rfl

theorem Stocked.beginRun (h : Stocked s) : Stocked (beginRun s) := by
  have hrun : Stocked { s with cye.state := .running, cye.deadline := none, cye.start := none } := h.congr rfl
  exact hrun.swapPending.congr ((stock_beginCycle _ _).trans (stock_joinEither _ _ _))

theorem Stocked.endCycle (h : Stocked s) : Stocked (endCycle s) :=
  h.evaluatePresence.swapPending.congr ((stock_beginCycle _ _).trans (stock_joinEither _ _ _))

theorem Stocked.abortSegment (h : Stocked s) (seg : Segment) : Stocked (abortSegment seg s) := by
  simp only [Machine.abortSegment]
  split
  · refine Stocked.completeStop (Stocked.congr ?_ (stock_offer _ _))
    exact h.congr rfl
  · exact h.congr rfl

theorem stock_settle (slot : RxSlot) (r : Reception) (s : State) : stock (settle slot r s) = stock s := by
  simp only [settle]
  split <;> rfl

theorem Stocked.takeReport {slot : RxSlot} {edges : List Edge} {upTo : Nat} {judge : RxClass → State → State} {u : State}
    (h : Stocked s) (hj : ∀ cls v, Stocked v → Stocked (judge cls v)) (e : takeReport slot edges upTo judge s = some u) :
    Stocked u := by
  rcases takeReport_cases slot edges upTo judge s with hn | ⟨phase, -, -, ⟨r, -, hr⟩ | ⟨-, hr⟩⟩
  · cases hn.symm.trans e
  · cases hr.symm.trans e
    exact hj r.cls _ (h.congr (stock_settle slot r s))
  · cases hr.symm.trans e
    exact h.congr rfl

/-! ### Requests (R40, R43, R81, R98, R100, R124, R171, R173) -/

theorem Stocked.enrolled (h : Stocked s) {a : Nat} (hst : station a s = none) (cls : StationClass) (mode : NoticeMode)
    (hold : Bool) : Stocked (setStation a (some (newStation cls mode hold)) s) :=
  ⟨h.pool.congr (holdings_setStation_same (by rw [hst]; rfl)), h.queues.enrolled hst cls mode hold⟩

theorem Stocked.takeEnroll (h : Stocked s) (tag : Byte) (body : List Byte) : Stocked (takeEnroll tag body s) := by
  simp only [Machine.takeEnroll]
  split
  · split
    · split
      · rename_i hst
        exact (h.enrolled hst _ _ _).congr ((stock_reply _ _ _ _ _).trans (stock_removeStranger _ _))
      · refine h.congr ?_
        rw [stock_reply, stock_removeStranger]
        exact stock_onStation (fun _ => by exact ⟨rfl, rfl, rfl⟩) _ s
    · exact h.congr rfl
  · exact h.congr rfl

theorem Stocked.retired (h : Stocked s) {a : Nat} {st : Station} (hst : station a s = some st) :
    Stocked (retired a st s) := by
  have hrecord := (endQueue_ends .retired true (h.queues.queued hst)).record
  have hended := (h.endQueue st.queue .retired true).discardContext a
  refine ⟨hended.pool.congr (holdings_setStation_same ?_), h.queues.retired hst⟩
  rw [station_discardContext hrecord]
  rfl

theorem Stocked.takeRetire (h : Stocked s) (tag : Byte) (body : List Byte) : Stocked (takeRetire tag body s) := by
  simp only [Machine.takeRetire]
  split
  · split
    · exact h.congr rfl
    · rename_i st hst
      exact (h.retired hst).congr rfl
  · exact h.congr rfl

/-- A SEND that is not refused has a destination, a flag and at least one byte (R81). -/
theorem sendFits_of_accepted {body : List Byte} (hn : sendRefusal body s = none) :
    ∃ dest flag bytes, body = dest :: flag :: bytes ∧ SendFits dest flag bytes s := by
  rcases body with _ | ⟨dest, _ | ⟨flag, bytes⟩⟩
  · cases hn
  · cases hn
  · exact ⟨dest, flag, bytes, rfl, (sendRefusal_none_iff dest flag bytes s).mp hn⟩

theorem Stocked.takeSend (h : Stocked s) (tag : Byte) (body : List Byte) : Stocked (takeSend tag body s) := by
  unfold Machine.takeSend
  split
  · exact h.congr rfl
  · exact h.congr rfl
  · rename_i hn
    obtain ⟨dest, flag, bytes, rfl, hfits⟩ := sendFits_of_accepted hn
    have hqueues := queueInv_acceptSend h.pool h.queues hfits
    obtain ⟨-, -, -, -, hfree, hdown⟩ := hfits
    exact Stocked.congr ⟨h.pool.acceptSend _ hfree hdown, hqueues⟩ (stock_reply _ _ _ _ _)

theorem Stocked.takeCancel (h : Stocked s) (tag : Byte) (body : List Byte) : Stocked (takeCancel tag body s) := by
  simp only [Machine.takeCancel]
  split
  · exact h.congr rfl
  · split
    · exact h.congr rfl
    · exact (h.endMessage _ _ _).congr rfl

theorem Stocked.takeFlush (h : Stocked s) (tag : Byte) (body : List Byte) : Stocked (takeFlush tag body s) := by
  simp only [Machine.takeFlush]
  split
  · exact h.congr rfl
  · split
    · exact h.congr rfl
    · exact (h.endMessages _ _ _).congr rfl

theorem Stocked.takeFetch (h : Stocked s) (tag : Byte) (body : List Byte) : Stocked (takeFetch tag body s) := by
  refine ⟨h.pool.takeFetch tag body, h.queues.congr ?_⟩
  simp only [Machine.takeFetch]
  (repeat' split) <;> rfl

theorem Stocked.takeCounters (h : Stocked s) (tag : Byte) (body : List Byte) : Stocked (takeCounters tag body s) := by
  have hcleared : ∀ (a : Nat) (clear : Bool), Stocked (if clear then
      Machine.onStation a (fun x => { x with counters := Vector.replicate 31 0 }) s else s) := fun a clear => by
    split
    · exact h.onStation (fun _ => by exact ⟨rfl, rfl, rfl⟩) a
    · exact h
  simp only [Machine.takeCounters]
  split
  · exact h.congr rfl
  · split
    · refine h.congr ?_
      rw [stock_reply]
      split <;> rfl
    · split
      · split
        · exact h.congr rfl
        · exact (hcleared _ _).congr rfl
      · exact h.congr rfl

theorem Stocked.takeSchedCommit (h : Stocked s) (tag : Byte) : Stocked (takeSchedCommit tag s) := by
  unfold Machine.takeSchedCommit
  split
  · exact h.congr rfl
  · split
    · exact h.congr rfl
    · split
      · exact h.congr rfl
      · split
        · exact h.swap.congr rfl
        · exact h.congr rfl

theorem stock_applySettings (c : Settings) (s : State) : stock (applySettings c s) = stock s := by
  have hlimited : stock (onStations (limitCounts c) { s with rex.config := c }) = stock s :=
    stock_onStations (fun _ => by exact ⟨rfl, rfl, rfl⟩) _
  refine Eq.trans ?_ hlimited
  unfold applySettings changeAttnMode
  split <;> rfl

theorem Stocked.takeConfigure (h : Stocked s) (tag : Byte) (body : List Byte) : Stocked (takeConfigure tag body s) := by
  unfold Machine.takeConfigure
  split
  · split
    · exact h.congr (stock_applySettings _ s)
    · exact h.congr rfl
  · exact h.congr rfl

theorem stock_takeStart (tag : Byte) (s : State) : stock (takeStart tag s) = stock s := by
  unfold takeStart
  split <;> rfl

theorem stock_takeStop (tag : Byte) (s : State) : stock (takeStop tag s) = stock s := by
  unfold takeStop
  split
  · rfl
  · rw [stock_reply, stock_joinEither]
    rfl
  · rfl
  · rfl

/-! ### The link, the transmitter and resets (R16 to R19, R158, R163, R178) -/

theorem stock_refuse (f : Frame) (made dropped : Option GlobalCounter) (s : State) :
    stock (refuse f made dropped s) = stock s := by
  unfold refuse
  split
  · cases made <;> rfl
  · cases dropped <;> rfl

theorem stock_acceptFrame (r : Request) (s : State) : stock (acceptFrame r s) = stock s := by
  unfold acceptFrame
  split
  · rfl
  · exact stock_refuse _ _ _ s

theorem stock_frameSent (src : TxSource) (s : State) : stock (frameSent src s) = stock s := by
  cases src with
  | startUp => rfl
  | reply =>
    simp only [frameSent, replySent]
    (repeat' split) <;> rfl
  | notice =>
    simp only [frameSent, noticeSent, attnOnLeave]
    (repeat' split) <;> rfl
  | overflow =>
    simp only [frameSent, overflowSent, attnOnLeave]
    (repeat' split) <;> rfl

theorem stocked_resetBlocks (hlk : Hlk) (startUp : Option Cause) (low : Bool) (s : State) :
    Stocked (resetBlocks hlk startUp low s) := by
  have hnone : ∀ a, station a (resetBlocks hlk startUp low s) = none := station_reset
  refine ⟨poolInv_empty ⟨rfl, rfl, rfl, rfl⟩ rfl fun a => ?_, queueInv_empty rfl (show 1 ≤ 1 ∧ 1 ≤ 65535 by decide) ⟨rfl, rfl⟩
    fun a st hst => ?_⟩
  · rw [hnone]
    rfl
  · cases (hnone a).symm.trans hst

theorem Stocked.busResetBlocks (h : Stocked s) : Stocked (busResetBlocks s) := by
  have hmap : ∀ a, station a (Machine.busResetBlocks s) = (station a s).map busResetRecord := fun a =>
    station_onStations a busResetRecord s
  refine ⟨poolInv_empty ⟨rfl, rfl, rfl, rfl⟩ rfl fun a => ?_, queueInv_empty rfl h.queues.deliveryOk.counter ⟨rfl, rfl⟩
    fun a st hst => ?_⟩
  · rw [hmap]
    cases station a s <;> rfl
  · rw [hmap] at hst
    obtain ⟨old, -, rfl⟩ := Option.map_eq_some_iff.mp hst
    exact ⟨rfl, rfl⟩

end Blocks

/-! ### Every command and every step -/

section Commands
variable {s t : State}

theorem stocked_perform {change : Option State} (h : Stocked s) (hu : ∀ u, change = some u → Stocked u)
    (e : perform change s = .next t) : Stocked t :=
  perform_keeps (fun u hu => hu.congr (stock_arbitrate u)) h hu e

theorem stocked_performIf {p : Prop} [Decidable p] {v : State} (h : Stocked s) (hv : p → Stocked v)
    (e : perform (if p then some v else none) s = .next t) : Stocked t := by
  refine stocked_perform h (fun u hu => ?_) e
  split at hu <;> cases hu
  rename_i hp
  exact hv hp

theorem stocked_request {kind tag : Byte} {body : List Byte} {owner : State → State} (h : Stocked s)
    (ho : ∀ u, Stocked u → Stocked (owner u)) (e : request kind tag body owner s = .next t) : Stocked t := by
  rcases request_cases e with rfl | ⟨rest, -, rfl | rfl⟩
  · exact h
  · exact (ho { s with rex.inbox := rest } (h.congr rfl)).congr (stock_arbitrate _)
  · exact h.congr (stock_arbitrate _)

/-- A request whose owner reaches neither the pool nor a queue. -/
theorem stocked_request_plain {kind tag : Byte} {body : List Byte} {owner : State → State} (h : Stocked s)
    (ho : ∀ u, stock (owner u) = stock u) (e : request kind tag body owner s = .next t) : Stocked t :=
  stocked_request h (fun u hu => hu.congr (ho u)) e

theorem stocked_takeEffect {scope : Scope} {effect : State → State} (h : Stocked s) (hu : Stocked (effect s))
    (e : takeEffect scope effect s = .next t) : Stocked t :=
  takeEffect_keeps (fun u hu => hu.congr (stock_arbitrate u)) h (fun _ => hu) e

theorem stocked_exec {i : Instr} (h : Stocked s) (e : exec i s = .next t) : Stocked t := by
  cases i with
  | powerOn | pinReset =>
    cases e
    exact (stocked_resetBlocks ..).congr (stock_arbitrate _)
  | resetnLow n =>
    change execResetnLow s n = .next t at e
    unfold execResetnLow at e
    split at e <;> cases e
    · exact stocked_resetBlocks ..
    · exact h
  | identify | status | readConfig =>
    refine stocked_request_plain h (fun u => ?_) e
    rfl
  | configure tag body => exact stocked_request h (fun u hu => hu.takeConfigure tag body) e
  | counters tag body => exact stocked_request h (fun u hu => hu.takeCounters tag body) e
  | reset tag body =>
    refine stocked_request_plain h (fun u => ?_) e
    unfold takeReset
    split <;> rfl
  | unknownRequestKind kind tag body =>
    refine stocked_perform h (fun u hu => ?_) e
    split at hu
    · split at hu <;> cases hu
      exact h.congr rfl
    · cases hu
  | start tag body => exact stocked_request_plain h (stock_takeStart tag) e
  | stop tag body => exact stocked_request_plain h (stock_takeStop tag) e
  | schedEdit tag body =>
    refine stocked_request_plain h (fun u => ?_) e
    simp only [takeSchedEdit]
    (repeat' split) <;> rfl
  | schedRead tag body =>
    refine stocked_request_plain h (fun u => ?_) e
    simp only [takeSchedRead]
    split <;> rfl
  | schedCommit tag body => exact stocked_request h (fun u hu => hu.takeSchedCommit tag) e
  | enroll tag body => exact stocked_request h (fun u hu => hu.takeEnroll tag body) e
  | retire tag body => exact stocked_request h (fun u hu => hu.takeRetire tag body) e
  | stationQuery tag body =>
    refine stocked_request_plain h (fun u => ?_) e
    simp only [takeStationQuery]
    (repeat' split) <;> rfl
  | strangers tag body =>
    refine stocked_request_plain h (fun u => ?_) e
    rfl
  | send tag body => exact stocked_request h (fun u hu => hu.takeSend tag body) e
  | cancel tag body => exact stocked_request h (fun u hu => hu.takeCancel tag body) e
  | flush tag body => exact stocked_request h (fun u hu => hu.takeFlush tag body) e
  | msgStatus tag body =>
    refine stocked_request_plain h (fun u => ?_) e
    unfold takeMsgStatus
    split <;> rfl
  | fetch tag body => exact stocked_request h (fun u hu => hu.takeFetch tag body) e
  | grant tag body =>
    refine stocked_request_plain h (fun u => ?_) e
    simp only [takeGrant]
    split <;> rfl
  | goodFrame b =>
    refine stocked_perform h (fun u hu => ?_) e
    split at hu <;> cases hu
    exact h.congr (stock_acceptFrame _ _)
  | checkError b =>
    refine stocked_perform h (fun u hu => ?_) e
    split at hu <;> cases hu
    exact h.congr (stock_refuse _ _ _ _)
  | frameSent =>
    refine stocked_perform h (fun u hu => ?_) e
    obtain ⟨f, -, rfl⟩ := Option.map_eq_some_iff.mp hu
    exact h.congr (stock_frameSent _ _)
  | lengthError | huntByteDiscarded | gapTimeout | characterError | breakDetected | attnPulseExpiry | characterStartEdge
  | rxdReturnsHigh =>
    refine stocked_performIf h (fun _ => ?_) e
    exact h.congr rfl
  | frameByteTaken b =>
    refine stocked_perform h (fun u hu => ?_) e
    split at hu
    · obtain ⟨rx, -, rfl⟩ := Option.map_eq_some_iff.mp hu
      exact h.congr rfl
    · cases hu
  | fullReset => exact stocked_takeEffect h (stocked_resetBlocks ..) e
  | busReset =>
    change execBusReset s = .next t at e
    refine stocked_takeEffect h ?_ e
    exact h.busResetBlocks.congr (stock_joinEither _ _ _)
  | linkReset =>
    change execLinkReset s = .next t at e
    refine stocked_takeEffect h ?_ e
    exact h.congr rfl
  | listeningExpiry => exact stocked_performIf h (fun _ => h.beginRun) e
  | carrier =>
    refine stocked_performIf h (fun _ => ?_) e
    exact h.congr (stock_joinEither _ _ _)
  | slotStart => exact stocked_performIf h (fun _ => h.startSlot) e
  | transmissionCompleted =>
    refine stocked_perform h (fun u hu => ?_) e
    split at hu <;> cases hu
    exact h.congr rfl
  | echoMismatch cell second level =>
    refine stocked_perform h (fun u hu => ?_) e
    split at hu
    · split at hu <;> cases hu
      exact h.abortSegment _
    all_goals cases hu
  | cycleEnd => exact stocked_performIf h (fun _ => h.endCycle) e
  | stopCompletion => exact stocked_performIf h (fun _ => h.completeStop) e
  | upSlotReport edges upTo =>
    exact stocked_perform h (fun u hu => h.takeReport (fun cls v hv => hv.judgeUpSlot _ cls) hu) e
  | admitSlotReport edges upTo =>
    exact stocked_perform h (fun u hu => h.takeReport (fun cls v hv => hv.resolveAdmit cls) hu) e

end Commands

/-- Settles O55: each command leaves the buffers and the queues alone, or moves one holder's buffer and keeps the queues by the
rule of its block. -/
theorem stepsKeepThePoolAndTheQueues : Obligations.StepsKeepThePoolAndTheQueues := by
  intro s t hp hi e
  have h : Stocked s := ⟨hp, hi⟩
  have hnext : Stocked t := by
    unfold step at e
    split at e
    · rename_i c rest _
      exact stocked_exec (s := { s with pending := rest }) (h.congr rfl) e
    · cases e
      exact h.congr (by rw [tick_eq]; rfl)
  exact ⟨hnext.pool, hnext.queues⟩

end Sys2Proof.Machine
end

section
/-! The report of an UP slot: a part still open, a part already reported, and the judgement of a settled class with its two
halves, DLV's answer and ULR's DATA (R109 to R113, R116, R136, R142). -/

namespace Sys2Proof.Machine

-- One proof after another, not in parallel: the whole text compiles under a bound on memory.
set_option Elab.async false

/-! ### The report (R109, R142) -/

/-- A part that settles is reported to the block its slot belongs to (R142). -/
theorem takeReport_settled {slot : RxSlot} {edges : List Edge} {upTo : Nat} {judge : RxClass → State → State}
    {part : RxPhase} {r : Reception} {s : State} (hl : s.lif.line = .receive slot part) (ho : partOpen part = true)
    (hr : hear edges upTo part = .settled r) :
    takeReport slot edges upTo judge s = some (judge r.cls (partReported slot r s)) := by
  simp only [takeReport, hl, ho, hr, and_self, if_true, settle_eq_partReported]

section Report
variable {edges : List Edge} {upTo : Nat} {part : RxPhase} {r : Reception} {s : State}

theorem exec_upSlotReport_open (hh : held s = false) (hl : s.lif.line = .receive .up part) (ho : partOpen part = true)
    (hn : partOpen (hear edges upTo part) = true) : exec (.upSlotReport edges upTo) s =
      .next (arbitrate { s with lif.line := .receive .up (hear edges upTo part) }) := by
  rw [← perform_some hh, ← takeReport_open (judge := judgeUpSlot (currentEntry s).owner) hl ho hn]
  rfl

theorem exec_upSlotReport_reported (hl : s.lif.line = .receive .up part) (ho : partOpen part = false) :
    exec (.upSlotReport edges upTo) s = .next s := by
  rw [← perform_none s,
    ← takeReport_reported (edges := edges) (upTo := upTo) (judge := judgeUpSlot (currentEntry s).owner) hl ho]
  rfl

/-- A report that settles an UP slot's part is judged for the owner of the slot in progress (R109, R142). -/
theorem exec_upSlotReport_settled (hh : held s = false) (hl : s.lif.line = .receive .up part)
    (ho : partOpen part = true) (hr : hear edges upTo part = .settled r) : exec (.upSlotReport edges upTo) s =
      .next (arbitrate
        (judgeUpSlot (entryAt s.sbk.active (s.cye.slot - 1)).owner r.cls (partReported .up r s))) := by
  rw [← perform_some hh, ← takeReport_settled hl ho hr]
  rfl

end Report

/-! ### The classes of an UP slot (R109 to R112) -/

section Classes
variable {a : Nat} {cls : RxClass} {seg : Segment} {st : Station} {s : State}

/-- Without a record no class but GOOD leaves a trace (R109). -/
theorem judgeUpSlot_unenrolled (h : station a s = none) (hcls : ∀ seg, cls ≠ .good seg) : judgeUpSlot a cls s = s := by
  cases cls with
  | good seg => exact absurd rfl (hcls seg)
  | silent | late | collided | malformed | crcBad => simp only [judgeUpSlot, h]

theorem judgeUpSlot_unenrolled_good (h : station a s = none) :
    judgeUpSlot a (.good seg) s = countGlobal .segmentsFromUnenrolled s := by
  simp only [judgeUpSlot, h]

theorem judgeUpSlot_silent (h : station a s = some st) :
    judgeUpSlot a .silent s = takeAnswer a none (setStation a (some (countIn .silentUpSlots st)) s) := by
  simp only [judgeUpSlot, h, countStation, onStation_some h]

theorem judgeUpSlot_late (h : station a s = some st) :
    judgeUpSlot a .late s = takeAnswer a none (setStation a (some (countIn .lateSegments st)) s) := by
  simp only [judgeUpSlot, h, countStation, onStation_some h]

/-- Three classes are one damaged segment to ULR (R111). -/
theorem judgeUpSlot_damaged (h : station a s = some st) (hcls : cls = .collided ∨ cls = .malformed ∨ cls = .crcBad) :
    judgeUpSlot a cls s = takeAnswer a none (setStation a (some (countIn .damagedSegments st)) s) := by
  rw [← onStation_some h]
  obtain rfl | rfl | rfl := hcls
  all_goals simp only [judgeUpSlot, h, countStation]

theorem judgeUpSlot_good (h : station a s = some st) : judgeUpSlot a (.good seg) s = judgeGood a st seg s := by
  simp only [judgeUpSlot, h]

theorem judgeGood_stray (h : station a s = some st) (ha : seg.address.toNat ≠ a) :
    judgeGood a st seg s = takeAnswer a none (setStation a (some (countIn .straySegments st)) s) := by
  rw [judgeGood, if_pos ha, countStation, onStation_some h]

theorem judgeGood_stale (h : station a s = some st) (ha : seg.address.toNat = a) (he : seg.echo ≠ s.cye.cycle) :
    judgeGood a st seg s = takeAnswer a none (setStation a (some (countIn .staleSegments st)) s) := by
  rw [judgeGood, if_neg (not_not.mpr ha), if_pos he, countStation, onStation_some h]

theorem judgeGood_misplaced (h : station a s = some st) (ha : seg.address.toNat = a) (he : seg.echo = s.cye.cycle)
    (hk : seg.kind = .beacon ∨ seg.kind = .join) :
    judgeGood a st seg s = takeAnswer a none (setStation a (some (countIn .misplacedSegments st)) s) := by
  have hkind : seg.kind ≠ .data ∧ seg.kind ≠ .empty := by
    obtain hk | hk := hk <;> simp [hk]
  rw [judgeGood, if_neg (not_not.mpr ha), if_neg (not_not.mpr he), if_pos hkind, countStation, onStation_some h]

/-- A current segment marks its owner heard before it is judged (R110). -/
theorem judgeGood_current (h : station a s = some st) (ha : seg.address.toNat = a) (he : seg.echo = s.cye.cycle)
    (hk : seg.kind = .data ∨ seg.kind = .empty) :
    judgeGood a st seg s = judgeCurrent a st seg (setStation a (some { st with heard := true }) s) := by
  have hkind : ¬(seg.kind ≠ .data ∧ seg.kind ≠ .empty) := fun ⟨hdata, hempty⟩ => hk.elim hdata hempty
  rw [judgeGood, if_neg (not_not.mpr ha), if_neg (not_not.mpr he), if_neg hkind, onStation_some h]

end Classes

/-- Settles O38: a part that goes on or was reported before reaches no judgement; a settled class is counted by what it is,
and an enrolled owner's outstanding segment is judged without an answer. -/
theorem upSlotsWithoutACurrentSegment : Obligations.UpSlotsWithoutACurrentSegment := by
  refine ⟨fun edges upTo part s hh hl => ⟨exec_upSlotReport_open hh hl, exec_upSlotReport_reported hl⟩, ?_⟩
  intro edges upTo part r s hh hl ho hr t a
  have hrecord : station a t = station a s := rfl
  rw [exec_upSlotReport_settled hh hl ho hr]
  refine ⟨fun hst hcls => ?_, fun hst ⟨seg, hcls⟩ => ?_, fun st hst => ?_⟩
  · rw [judgeUpSlot_unenrolled (hrecord.trans hst) hcls]
  · rw [hcls, judgeUpSlot_unenrolled_good (hrecord.trans hst)]
  · have hst' : station a t = some st := hrecord.trans hst
    intro unanswered
    have hcounts : ∀ c,
        judgeUpSlot a r.cls t = takeAnswer a none (setStation a (some (countIn c st)) t) → unanswered c :=
      fun _ e => congrArg (fun v => (.next (arbitrate v) : Out)) e
    refine ⟨fun hcls => hcounts _ ?_, fun hcls => hcounts _ ?_, fun hcls => hcounts _ ?_, fun seg hcls =>
      ⟨fun ha => hcounts _ ?_, fun ha he => hcounts _ ?_, fun ha he hk => hcounts _ ?_⟩⟩
    · rw [hcls, judgeUpSlot_silent hst']
    · rw [hcls, judgeUpSlot_late hst']
    · rw [judgeUpSlot_damaged hst' hcls]
    · rw [hcls, judgeUpSlot_good hst', judgeGood_stray hst' ha]
    · rw [hcls, judgeUpSlot_good hst', judgeGood_stale hst' ha he]
    · rw [hcls, judgeUpSlot_good hst', judgeGood_misplaced hst' ha he hk]

/-! ### The two halves of a current segment (R112, R113, R116) -/

section Current
variable {a : Nat} {seg : Segment} {st : Station} {s : State}

theorem judgeCurrent_empty (hk : seg.kind = .empty) :
    judgeCurrent a st seg s = takeAnswer a (some (answerOf seg)) s := by
  simp only [judgeCurrent, hk, reduceCtorEq, if_false]

theorem judgeCurrent_unjudged (hk : seg.kind = .data) (hp : st.presence ≠ .present) : judgeCurrent a st seg s =
    takeAnswer a (some (answerOf seg)) (countStation a .unjudgedDataSegments s) := by
  simp only [judgeCurrent, hk, hp, if_true, if_false]

theorem judgeCurrent_data (hk : seg.kind = .data) (hp : st.presence = .present) (haw : awaiting a s = none) :
    judgeCurrent a st seg s = takeData a seg s := by
  simp only [judgeCurrent, hk, hp, haw, Option.isSome_none, Bool.false_eq_true, if_true, if_false]

/-- Where both halves act, either may come first (R113; log 5). -/
theorem judgeCurrent_eitherOrder (hk : seg.kind = .data) (hp : st.presence = .present) {x : InFlight × Message}
    (haw : awaiting a s = some x) :
    let t := { s with choices := s.choices + 1 }
    judgeCurrent a st seg s = takeData a seg (takeAnswer a (some (answerOf seg)) t) ∨
    judgeCurrent a st seg s = takeAnswer a (some (answerOf seg)) (takeData a seg t) := by
  simp only [judgeCurrent, hk, hp, haw, Option.isSome_some, if_true]
  split
  · exact .inr rfl
  · exact .inl rfl

end Current

/-- With the queues in order a record that awaits its acknowledgement has its message (R80, R85, R91). -/
theorem QueueInv.message_of_inFlight {s : State} (hi : QueueInv s) {a : Nat} {st : Station} {r : InFlight}
    (hst : station a s = some st) (hr : st.inFlight = some r) : ∃ m, message r.handle s = some m := by
  have hhead := hi.inFlight_handle hst
  rw [hr] at hhead
  have hqueued : r.handle ∈ queueOf a s := queueOf_station hst ▸ List.mem_of_mem_head? hhead.symm
  obtain ⟨m, hm, -⟩ := hi.message_of_queued hqueued
  exact ⟨m, hm⟩

/-- Settles O39: the judgement by the kind of segment, the owner's presence, and whether a segment awaits its answer. -/
theorem aCurrentSegmentIsJudged : Obligations.ACurrentSegmentIsJudged := by
  intro edges upTo part r seg st s hh hl ho hr a hst hcls ha he t answer heard
  have hst' : station a t = some st := hst
  have hrange : 1 ≤ a ∧ a ≤ 30 := station_isSome_range hst
  have hheard : station a (setStation a (some heard) t) = some heard := station_setStation_same hrange
  have hjudged : seg.kind = .data ∨ seg.kind = .empty → exec (.upSlotReport edges upTo) s =
      .next (arbitrate (judgeCurrent a st seg (setStation a (some heard) t))) := fun hk => by
    rw [exec_upSlotReport_settled hh hl ho hr, hcls, judgeUpSlot_good hst', judgeGood_current hst' ha he hk]
  refine ⟨fun hk => ?_, fun hk hp => ?_, fun hk hp hready => ?_, fun hk hp hi ⟨q, hq, hphase⟩ => ?_⟩
  · rw [hjudged (.inr hk), judgeCurrent_empty hk]
    rfl
  · rw [hjudged (.inl hk), judgeCurrent_unjudged hk hp, countStation, onStation_setStation hrange]
    rfl
  · have hnone : awaiting a (setStation a (some heard) t) = none := awaiting_none fun x q hx hq => by
      cases hheard.symm.trans hx
      exact hready q hq
    rw [hjudged (.inl hk), judgeCurrent_data hk hp hnone]
  · intro u
    obtain ⟨m, hm⟩ := hi.message_of_inFlight hst hq
    have hmessage : message q.handle (setStation a (some heard) t) = some m :=
      (message_congr (s := s) (congrArg Mpl.messages (setStation_mpl a _ t))).trans hm
    have haw := awaiting_of hheard hq hphase hmessage
    have hchoices : (setStation a (some heard) t).choices = s.choices := setStation_choices a _ t
    have hcases := judgeCurrent_eitherOrder (seg := seg) hk hp haw
    rw [hchoices] at hcases
    rw [hjudged (.inl hk)]
    refine hcases.imp (fun e => ?_) fun e => ?_
    · rw [e]
      rfl
    · rw [e]
      rfl

end Sys2Proof.Machine
end

section
/-! DATA of a PRESENT owner: the six steps of an in-sequence segment, the duplicate, and the segment out of sequence (R116 to
R123, R126). -/

namespace Sys2Proof.Machine

-- One proof after another, not in parallel: the whole text compiles under a bound on memory.
set_option Elab.async false

/-! ### Writing a record and changing the inbox -/

theorem setStation_ulr_comm (a : Nat) (r : Option Station) (ulr : Ulr) (s : State) :
    { setStation a r s with ulr := ulr } = setStation a r { s with ulr := ulr } := by
  unfold setStation
  split <;> rfl

section Data
variable {a : Nat} {seg : Segment} {st : Station} {s : State}

/-! ### The steps of R117 -/

/-- A segment that ends what its station had open: the context goes, its buffer returns, and the segment is acknowledged and
counted (R117, R122). -/
theorem acknowledged_discardContext (h : station a s = some st) (c : StationCounter) :
    onStation a (fun x => countIn c (acknowledgeIn seg.seq x)) (discardContext a s) =
      setStation a (some (countIn c { acknowledgeIn seg.seq st with context := none }))
        (if st.context.isSome then returnUp s else s) := by
  rw [onStation_some (station_discardContext h), discardContext_some h]
  split
  · rw [returnUp_setStation, setStation_setStation]
    rfl
  · rfl

theorem answerBusy_eq (h : station a s = some st) :
    answerBusy a s = setStation a (some (countIn .busyAnswersGiven { st with busyAnswer := true })) s := onStation_some h

/-- The steps of R117 in the terms of the claims: each but the last by its condition and its effect. -/
theorem takeInSequence_eq (h : station a s = some st) : takeInSequence a st seg s =
    let acked := acknowledgeIn seg.seq st
    let freed := if st.context.isSome then returnUp s else s
    let whole := (baseContext st seg).bytes ++ seg.payload
    let busy := setStation a (some (countIn .busyAnswersGiven { st with busyAnswer := true })) s
    if seg.first = false ∧ st.context = none then setStation a (some (countIn .orphanSegments acked)) s
    else if seg.first = false ∧ (64 < whole.length ∨ 8 < (baseContext st seg).segments + 1) then
      setStation a (some (countIn .oversizeDiscards { acked with context := none })) freed
    else if seg.last = true ∧ whole = [] then
      setStation a (some (countIn .emptyMessages { acked with context := none })) freed
    else if seg.last = true ∧ 16 ≤ s.ulr.inbox.length then countGlobal .inboxFullAnswers busy
    else if seg.first = true ∧ st.context = none ∧ s.mpl.free = 0 then countGlobal .uplinkLendRefusals busy
    else acceptSegment a st seg s := by
  have hbase : (if seg.first then { bytes := [], segments := 0 }
      else st.context.getD { bytes := [], segments := 0 } : Context) = baseContext st seg := rfl
  have hempty : ∀ bytes : List Byte, bytes.length + seg.payload.length = 0 ↔ bytes ++ seg.payload = [] := fun bytes => by
    rw [← List.length_append, List.length_eq_zero_iff]
  simp only [takeInSequence, hbase, hempty, Bool.not_eq_true', Config.bufferSize, Config.uplinkInbox, List.length_append,
    acknowledged_discardContext h, onStation_some h, answerBusy_eq h]

/-- The record of an accepted segment; a buffer is lent where no context was open, and an open one is abandoned to a segment
with first set (R117). -/
theorem segmentTaken_eq (h : station a s = some st) : segmentTaken a st seg s =
    let acked := acknowledgeIn seg.seq st
    let counted := if seg.first = true ∧ st.context.isSome then countIn .contextsAbandoned acked else acked
    let extended : Context :=
      { bytes := (baseContext st seg).bytes ++ seg.payload, segments := (baseContext st seg).segments + 1 }
    setStation a (some (countIn .segmentsAccepted
        { counted with context := if seg.last then none else some extended }))
      (if st.context.isSome then s else lendUp s) := by
  have hlent : station a (if st.context.isSome then s else lendUp s) = some st := by
    split <;> exact h
  extract_lets acked counted extended
  by_cases habandoned : seg.first = true ∧ st.context.isSome
  · have hready : contextReady a st seg s =
        setStation a (some (countIn .contextsAbandoned st)) (if st.context.isSome then s else lendUp s) :=
      (if_pos habandoned).trans (onStation_some hlent)
    have hcounted : counted = countIn .contextsAbandoned acked := if_pos habandoned
    rw [segmentTaken, hready, onStation_setStation (station_isSome_range h), hcounted]
    rfl
  · have hready : contextReady a st seg s = if st.context.isSome then s else lendUp s := if_neg habandoned
    have hcounted : counted = acked := if_neg habandoned
    rw [segmentTaken, hready, onStation_some hlent, hcounted]

/-- A message completes after its record has been written (R123, R126). -/
theorem complete_setStation {u : Ulr} {c : Byte} (ha : 1 ≤ a ∧ a ≤ 30) (hu : s.ulr = u) (hc : s.cye.cycle = c)
    (bytes : List Byte) : complete a bytes (setStation a (some st) s) =
      let entry : InboxEntry := { source := a, bytes := bytes, cycle := c, arrival := u.arrival }
      let t := countGlobal .messagesCompleted (setStation a (some (countIn .messagesCompleted st))
        { s with ulr := { inbox := u.inbox ++ [entry], arrival := u.arrival + 1 } })
      if u.inbox = [] then offer (.uplinkReady 1) t else t := by
  have hcounted : ∀ ulr, countStation a .messagesCompleted { setStation a (some st) s with ulr := ulr } =
      setStation a (some (countIn .messagesCompleted st)) { s with ulr := ulr } := fun ulr => by
    rw [setStation_ulr_comm, countStation, onStation_setStation ha]
  have hu' : (setStation a (some st) s).ulr = u := (setStation_ulr a _ s).trans hu
  have hc' : (setStation a (some st) s).cye.cycle = c := (congrArg Cye.cycle (setStation_cye a _ s)).trans hc
  simp only [complete, hcounted, hu', hc', List.isEmpty_iff]

/-! ### The sequence of a segment (R116, R119, R120) -/

theorem takeData_inSequence (h : station a s = some st) (hs : seg.seq = st.upExpected) :
    takeData a seg s = takeInSequence a st seg s := by
  simp only [takeData, h, hs, if_true]

theorem takeData_duplicate (h : station a s = some st) (hs : seg.seq ≠ st.upExpected)
    (hl : st.lastAccepted = some seg.seq) :
    takeData a seg s = setStation a (some (countIn .duplicates { st with busyAnswer := false })) s := by
  simp only [takeData, h, hs, hl, if_true, if_false, onStation_some h]

theorem takeData_outOfSequence (h : station a s = some st) (hs : seg.seq ≠ st.upExpected)
    (hl : st.lastAccepted ≠ some seg.seq) :
    takeData a seg s = setStation a (some (countIn .outOfSequence { st with busyAnswer := false })) s := by
  simp only [takeData, h, hs, hl, if_false, onStation_some h]

end Data

/-- Settles O40: by the segment's sequence, and in sequence by the first step of R117 that applies. -/
theorem dataIsTakenInSequence : Obligations.DataIsTakenInSequence := by
  intro a seg st s hst put acked freed soFar whole orphan oversize empty full unlent
  -- What remains of each step is to pass the conditions before it.
  have hsteps : seg.seq = st.upExpected → takeData a seg s = _ :=
    fun hs => (takeData_inSequence hst hs).trans (takeInSequence_eq hst)
  refine ⟨takeData_duplicate hst, takeData_outOfSequence hst, fun hs h1 => ?_, fun hs h1 h2 => ?_, fun hs h1 h2 h3 => ?_,
    fun hs h1 h2 h3 h4 => ?_, fun hs h1 h2 h3 h4 h5 => ?_, fun hs h1 h2 h3 h4 h5 => ?_⟩
  · exact (hsteps hs).trans (if_pos h1)
  · exact (hsteps hs).trans ((if_neg h1).trans (if_pos h2))
  · exact (hsteps hs).trans ((if_neg h1).trans ((if_neg h2).trans (if_pos h3)))
  · exact (hsteps hs).trans ((if_neg h1).trans ((if_neg h2).trans ((if_neg h3).trans (if_pos h4))))
  · exact (hsteps hs).trans ((if_neg h1).trans ((if_neg h2).trans ((if_neg h3).trans ((if_neg h4).trans (if_pos h5)))))
  · intro lent counted
    have haccepted : takeData a seg s = acceptSegment a st seg s := (hsteps hs).trans
      ((if_neg h1).trans ((if_neg h2).trans ((if_neg h3).trans ((if_neg h4).trans (if_neg h5)))))
    rw [haccepted, acceptSegment_eq, segmentTaken_eq hst]
    refine ⟨fun hlast => ?_, fun hlast => ?_⟩
    · rw [hlast]
      rfl
    · have hlent : lent.ulr = s.ulr ∧ lent.cye.cycle = s.cye.cycle := by
        simp only [lent]
        split <;> exact ⟨rfl, rfl⟩
      obtain ⟨hulr, hcycle⟩ := hlent
      rw [hlast, if_pos rfl]
      exact complete_setStation (station_isSome_range hst) hulr hcycle whole

end Sys2Proof.Machine
end

section
/-! FETCH: the entry it takes, of the inbox or of a source, and its three answers (R124). -/

namespace Sys2Proof.Machine

-- One proof after another, not in parallel: the whole text compiles under a bound on memory.
set_option Elab.async false

/-- The source a FETCH names, none for the whole inbox (R124). -/
def fetchSource (body : List Byte) : Option Nat := if body.isEmpty then none else some (numAt body 0)

section Fetch
variable {tag : Byte} {body : List Byte} {rest : List Request} {s : State}

/-- A FETCH names no source or one, and its body holds nothing else (R124). -/
theorem fetchSource_all (hb : body.length ≤ 1) (p : Nat → Bool) :
    (fetchSource body).all p = true ↔ ∀ a ∈ body, p a.toNat = true := by
  match body with
  | [] => simp [fetchSource]
  | [a] => simp [fetchSource, numAt, byteAt]
  | a :: b :: l => simp at hb

theorem fetchSource_inRange_iff (hb : body.length ≤ 1) :
    (fetchSource body).all stationAddress = true ↔ ∀ a ∈ body, 1 ≤ a ∧ a ≤ 30 := by
  simp only [fetchSource_all hb, stationAddress_byte]

theorem fetchable_iff (hb : body.length ≤ 1) (e : InboxEntry) :
    fetchable (fetchSource body) e = true ↔ ∀ a ∈ body, e.source = a.toNat := by
  have hall : fetchable (fetchSource body) e = (fetchSource body).all fun a => e.source == a := by
    cases fetchSource body <;> rfl
  simp only [hall, fetchSource_all hb, beq_iff_eq]

theorem exec_fetch (h : CanTake ⟨0x12, tag, body⟩ rest s) (hb : body.length ≤ 1) :
    exec (.fetch tag body) s = .next (arbitrate (takeFetch tag body { s with rex.inbox := rest })) :=
  request_suits (takeFetch tag body) h (decide_eq_true hb)

theorem takeFetch_badArgument (hr : ¬ (fetchSource body).all stationAddress = true) :
    takeFetch tag body s = reply kindFetch tag .badArgument [] s := if_neg hr

theorem takeFetch_empty (hr : (fetchSource body).all stationAddress = true)
    (hn : s.ulr.inbox.find? (fetchable (fetchSource body)) = none) :
    takeFetch tag body s = reply kindFetch tag .empty [oneByte s.ulr.inbox.length] s := by
  have hsource : (if body.isEmpty then none else some (numAt body 0)) = fetchSource body := rfl
  simp only [takeFetch, hsource, hr, hn, if_true]

/-- The oldest entry that suits leaves the inbox, the others keep their order (R124). -/
theorem takeFetch_oldest {older newer : List InboxEntry} {e : InboxEntry}
    (hr : (fetchSource body).all stationAddress = true) (hi : s.ulr.inbox = older ++ e :: newer)
    (ho : ∀ x ∈ older, ¬ fetchable (fetchSource body) x = true) (he : fetchable (fetchSource body) e = true) :
    takeFetch tag body s = reply kindFetch tag .ok
      ([oneByte e.source] ++ twoBytes e.arrival.toNat ++
       [e.cycle, oneByte (older ++ newer).length, oneByte ((older ++ newer).countP fun x => x.source == e.source),
        oneByte e.bytes.length] ++ e.bytes)
      (returnUp { s with ulr.inbox := older ++ newer }) := by
  have hfind : s.ulr.inbox.find? (fetchable (fetchSource body)) = some e :=
    List.find?_eq_some_iff_append.mpr ⟨he, older, newer, hi, fun x hx => by simpa using ho x hx⟩
  have herase : s.ulr.inbox.eraseP (fetchable (fetchSource body)) = older ++ newer := by
    rw [hi, List.eraseP_append_right _ ho, List.eraseP_cons_of_pos he]
  have hsource : (if body.isEmpty then none else some (numAt body 0)) = fetchSource body := rfl
  simp only [takeFetch, hsource, hr, hfind, herase, if_true]

end Fetch

/-- Settles O41: a source out of range, no entry that suits, and the oldest that does. -/
theorem fetchTakesTheOldest : Obligations.FetchTakesTheOldest := by
  intro tag body rest s h hb suits
  rw [exec_fetch h hb]
  refine ⟨fun hbad => ?_, fun hrange => ⟨fun hnone => ?_, fun older e newer hi ho he => ?_⟩⟩
  · have hout : ¬ (fetchSource body).all stationAddress = true := by
      rw [fetchSource_inRange_iff hb]
      obtain rfl | ⟨a, rfl, ha⟩ := hbad
      · decide
      · exact fun hin => absurd (hin a List.mem_cons_self).2 (BitVec.not_le.mpr ha)
    rw [takeFetch_badArgument hout]
    rfl
  · have hfind : s.ulr.inbox.find? (fetchable (fetchSource body)) = none :=
      List.find?_eq_none.mpr fun e he => mt (fetchable_iff hb e).mp (hnone e he)
    rw [takeFetch_empty (s := { s with rex.inbox := rest }) ((fetchSource_inRange_iff hb).mpr hrange) hfind]
    rfl
  · rw [takeFetch_oldest (s := { s with rex.inbox := rest }) ((fetchSource_inRange_iff hb).mpr hrange) hi
      (fun x hx => mt (fetchable_iff hb x).mp (ho x hx)) ((fetchable_iff hb e).mpr he)]
    simp only [beq_eq_decide]
    rfl

end Sys2Proof.Machine
end

section
/-! The two remainders bit by bit, and the bytes of a partial frame (R132, R151 to R154). -/

namespace Sys2Proof.Machine

-- One proof after another, not in parallel: the whole text compiles under a bound on memory.
set_option Elab.async false

/-! ### Remainders (R132, R154) -/

/-- The polynomial is combined in exactly where the bit differs from the remainder's top bit. -/
theorem crcBit_eq_ite (poly r : Half) (bit : Bool) :
    crcBit poly r bit = if r.getLsbD 15 = bit then r <<< 1 else (r <<< 1) ^^^ poly := by
  rw [crcBit, BitVec.msb_eq_getLsbD_last]
  cases r.getLsbD (16 - 1) <;> cases bit <;> rfl

theorem segmentCrc_concat (bits : List Bool) (bit : Bool) :
    segmentCrc (bits ++ [bit]) = crcBit 0x8005 (segmentCrc bits) bit := List.foldl_concat _ _ _ _

theorem frameCheck_concat (bytes : List Byte) (b : Byte) :
    frameCheck (bytes ++ [b]) = frameCheckByte (frameCheck bytes) b := List.foldl_concat _ _ _ _

/-- The bits of a field by their place: the one sent first is the most significant (R130). -/
theorem bitsOf_eq_map_getLsbD {w : Nat} (x : BitVec w) :
    bitsOf x = (List.range w).map fun i => x.getLsbD (w - 1 - i) :=
  List.map_congr_left fun i hi => by simp [BitVec.getMsbD, List.mem_range.mp hi]

theorem frameCheckByte_eq_foldl (r : Half) (b : Byte) :
    frameCheckByte r b = (List.range 8).foldl (fun r i => crcBit 0x1021 r (b.getLsbD (7 - i))) r := by
  rw [frameCheckByte, crcBits, bitsOf_eq_map_getLsbD, List.foldl_map]

/-! ### The bytes of a partial frame (R151 to R153) -/

/-- A byte that extends the partial frame leaves the receiver inside a frame. -/
theorem extendFrame_ne_hunt {b : Byte} {rx rx' : FrameRx} (h : extendFrame b rx = some rx') : rx' ≠ .hunt := by
  rintro rfl
  cases rx with
  | hunt | length => simp [extendFrame] at h
  | body n bytes check => simp only [extendFrame] at h; split at h <;> cases h
  | check n bytes check high => cases high <;> cases h

/-- A byte that extends the partial frame: the receiver's next state, with the gap timer restarted (R151 to R153, R157). -/
theorem exec_frameByteTaken {b : Byte} {rx : FrameRx} {s : State} (hh : held s = false)
    (hc : s.hlk.chr = .inCharacter) (h : extendFrame b s.hlk.rx = some rx) :
    exec (.frameByteTaken b) s =
      .next (arbitrate { s with hlk := { s.hlk with rx := rx, gap := .running, chr := .ready } }) := by
  have hafter : afterByte rx s = { s with hlk := { s.hlk with rx := rx, gap := .running, chr := .ready } } := by
    simp [afterByte, extendFrame_ne_hunt h]
  change perform (if inCharacter s then (extendFrame b s.hlk.rx).map fun rx => afterByte rx s else none) s = _
  rw [if_pos (by simp [inCharacter, hc]), h, Option.map_some, perform_some hh, hafter]

/-- A stray byte in HUNT is counted, and the receiver goes on hunting (R151). -/
theorem exec_huntByteDiscarded {b : Byte} {s : State} (hh : held s = false) (hc : s.hlk.chr = .inCharacter)
    (hrx : s.hlk.rx = .hunt) (hb : b ≠ marker) :
    exec (.huntByteDiscarded b) s = .next (arbitrate (countGlobal .huntBytesDiscarded (afterByte .hunt s))) := by
  change perform (if inCharacter s ∧ s.hlk.rx = .hunt ∧ b ≠ marker then _ else none) s = _
  rw [if_pos ⟨by simp [inCharacter, hc], hrx, hb⟩, perform_some hh]

/-- A length byte out of range is counted, and the receiver hunts (R152). -/
theorem exec_lengthError {b : Byte} {s : State} (hh : held s = false) (hc : s.hlk.chr = .inCharacter)
    (hrx : s.hlk.rx = .length) (hb : b.toNat < 2 ∨ 250 < b.toNat) :
    exec (.lengthError b) s = .next (arbitrate (countGlobal .lengthErrors (afterByte .hunt s))) := by
  change perform (if inCharacter s ∧ s.hlk.rx = .length ∧ (b.toNat < 2 ∨ 250 < b.toNat) then _ else none) s = _
  rw [if_pos ⟨by simp [inCharacter, hc], hrx, hb⟩, perform_some hh]

/-- Settles O43: the remainders bit by bit, and the byte by the state of the frame receiver it finds. -/
theorem bytesBuildAFrame : Obligations.BytesBuildAFrame := by
  refine ⟨crcBit_eq_ite, ⟨rfl, segmentCrc_concat⟩, ⟨rfl, frameCheck_concat⟩, frameCheckByte_eq_foldl, ?_⟩
  intro b s hh hc hunting into
  have taken : ∀ {rx}, extendFrame b s.hlk.rx = some rx → into rx := fun h => exec_frameByteTaken hh hc h
  refine ⟨?marker, ?stray, ?length, ?badLength, fun n bytes check hrx => ⟨?body, ?filled⟩, ?firstCheck⟩
  case marker =>
    rintro hrx rfl
    exact taken (by rw [hrx]; rfl)
  case stray =>
    intro hrx hb
    exact exec_huntByteDiscarded hh hc hrx hb
  case length =>
    intro hrx h2 h250
    have hb : 2 ≤ b.toNat ∧ b.toNat ≤ 250 := ⟨BitVec.le_def.mp h2, BitVec.le_def.mp h250⟩
    exact taken (by rw [hrx]; exact if_pos hb)
  case badLength =>
    intro hrx hb
    exact exec_lengthError hh hc hrx (hb.imp BitVec.lt_def.mp BitVec.lt_def.mp)
  case body =>
    intro hn
    exact taken (by rw [hrx]; exact if_pos hn)
  case filled =>
    intro hn
    exact taken (by rw [hrx]; exact if_neg (by omega))
  case firstCheck =>
    intro n bytes check hrx
    exact taken (by rw [hrx]; rfl)

end Sys2Proof.Machine
end

section
/-! The pins of the bus side and the transmitter, the phases of SEND and what a tick does (R130, R131, R133, R142, R147,
R148, R161). -/

namespace Sys2Proof.Machine

-- One proof after another, not in parallel: the whole text compiles under a bound on memory.
set_option Elab.async false

/-! ### The pins of the bus side (R130, R131, R133, R147) -/

theorem bde_iff (s : State) : bde s = true ↔ ∃ seg phase, s.lif.line = .send seg phase := by
  cases h : s.lif.line <;> simp [bde, h]

/-- Outside the cells BTX stands at its idle level (R130). -/
theorem btx_idle {s : State} (h : ∀ seg k second, s.lif.line ≠ .send seg (.cells k second)) : btx s = true := by
  unfold btx
  split
  · rename_i seg k second hl
    exact absurd hl (h seg k second)
  all_goals rfl

/-- In a cell BTX drives the level of its half (R130). -/
theorem btx_cell {seg : Segment} {k : Nat} {second v : Bool} {s : State}
    (hl : s.lif.line = .send seg (.cells k second)) (hv : (segmentCells seg)[k]? = some v) :
    btx s = if second then v else !v := by
  simp only [btx, hl, drivenLevel_eq second hv, Option.getD_some]

theorem length_coveredBits (seg : Segment) : (coveredBits seg).length = 32 + 8 * seg.payload.length := by
  rw [coveredBits, List.length_append, length_headerBits, length_bitsOfBytes]

/-- Preamble, delimiter, header, payload and CRC (R131). -/
theorem length_segmentCells (seg : Segment) : (segmentCells seg).length = 72 + 8 * seg.payload.length := by
  have hpre : preambleCells.length = 16 := rfl
  simp only [segmentCells, delimiterCells, List.length_append, length_bitsOf, length_coveredBits, hpre]
  omega

/-! ### The phases of SEND (R133) -/

section Phases

variable {p t : Nat}

theorem sendPhaseAt_lead (h : t < 4) : sendPhaseAt p t = some .lead := if_pos h

theorem sendPhaseAt_cells (h4 : 4 ≤ t) (h : t < 2 * (74 + 8 * p)) :
    sendPhaseAt p t = some (.cells ((t - 4) / 2) ((t - 4) % 2 == 1)) := by
  rw [sendPhaseAt, if_neg (by omega), if_pos h]

/-- The two halves of cell `k`. -/
theorem sendPhaseAt_cell {k : Nat} (second : Bool) (hk : k < 72 + 8 * p) :
    sendPhaseAt p (4 + 2 * k + second.toNat) = some (.cells k second) := by
  have hs := second.toNat_le
  have hdiv : (4 + 2 * k + second.toNat - 4) / 2 = k := by omega
  have hmod : ((4 + 2 * k + second.toNat - 4) % 2 == 1) = second := by
    rw [show (4 + 2 * k + second.toNat - 4) % 2 = second.toNat by omega]
    cases second <;> rfl
  rw [sendPhaseAt_cells (by omega) (by omega), hdiv, hmod]

theorem sendPhaseAt_lag (h : 2 * (74 + 8 * p) ≤ t) (h' : t < 2 * (75 + 8 * p)) : sendPhaseAt p t = some .lag := by
  rw [sendPhaseAt, if_neg (by omega), if_neg (by omega), if_pos h']

theorem sendPhaseAt_none (h : 2 * (75 + 8 * p) ≤ t) : sendPhaseAt p t = none := by
  rw [sendPhaseAt, if_neg (by omega), if_neg (by omega), if_neg (by omega)]

/-- From LEAD's last half bit time on, half a bit time brings the next phase. -/
theorem sendPhaseAt_succ (h3 : 3 ≤ t) (ht : t + 1 < 2 * (75 + 8 * p)) :
    ∃ phase, sendPhaseAt p t = some phase ∧ sendPhaseAt p (t + 1) = some (nextSendPhase (72 + 8 * p) phase) := by
  obtain rfl | ⟨k, hk, rfl | rfl⟩ | hlag : t = 3 ∨ (∃ k < 72 + 8 * p, t = 4 + 2 * k ∨ t = 4 + 2 * k + 1) ∨
      2 * (74 + 8 * p) ≤ t := by
    by_cases h : 4 ≤ t ∧ t < 2 * (74 + 8 * p)
    · exact .inr (.inl ⟨(t - 4) / 2, by omega, by omega⟩)
    · omega
  · exact ⟨.lead, sendPhaseAt_lead (by omega), sendPhaseAt_cell (k := 0) false (by omega)⟩
  · exact ⟨.cells k false, sendPhaseAt_cell false hk, sendPhaseAt_cell true hk⟩
  · refine ⟨.cells k true, sendPhaseAt_cell true hk, ?_⟩
    rw [nextSendPhase]
    split
    · rename_i hk'
      exact sendPhaseAt_cell false hk'
    · exact sendPhaseAt_lag (by omega) (by omega)
  · exact ⟨.lag, sendPhaseAt_lag hlag (by omega), sendPhaseAt_lag (by omega) ht⟩

end Phases

/-! ### The tick (R129, R133, R142) -/

theorem tick_held {s : State} (h : held s = true) : tick s = s := if_pos h

theorem tick_running {s : State} (h : held s = false) : tick s = { s with lif.line := tickLine s.lif.line } :=
  if_neg (by simp [h])

/-- A tick that leaves the line state as it is leaves the state as it is. -/
theorem tick_still {s : State} (h : held s = false) (hl : tickLine s.lif.line = s.lif.line) : tick s = s := by
  rw [tick_running h, hl]

/-! ### TXD (R148, R158, R161) -/

/-- A place in a run of blocks of one length is a place of a block. -/
theorem getElem?_flatMap_block {α β : Type} {f : α → List β} {n : Nat} (hf : ∀ x, (f x).length = n) (xs : List α)
    (i : Nat) {j : Nat} (hj : j < n) : (xs.flatMap f)[n * i + j]? = xs[i]?.bind fun x => (f x)[j]? := by
  induction xs generalizing i with
  | nil => simp
  | cons x xs ih =>
    rw [List.flatMap_cons]
    cases i with
    | zero => simp [List.getElem?_append_left, hf, hj]
    | succ i =>
      rw [List.getElem?_append_right (by rw [hf, Nat.mul_succ]; omega), hf,
        show n * (i + 1) + j - n = n * i + j by rw [Nat.mul_succ]; omega, ih i]
      simp

theorem length_characterBits (b : Byte) : (characterBits b).length = 10 := by simp [characterBits]

/-- The data bits of a character, the least significant first (R148). -/
theorem characterBits_data (b : Byte) {j : Nat} (hj : j < 8) : (characterBits b)[1 + j]? = some (b.getLsbD j) := by
  rw [characterBits, List.cons_append, Nat.add_comm, List.getElem?_cons_succ, List.getElem?_append_left (by simpa using hj),
    List.getElem?_reverse (by simpa using hj), bitsOf_eq_map_getLsbD]
  simp [show 7 - j < 8 by omega, show 7 - (7 - j) = j by omega]

theorem characterBits_stop (b : Byte) : (characterBits b)[9]? = some true := by simp [characterBits]

theorem length_txBits (bytes : List Byte) : (txBits bytes).length = 10 * bytes.length := by
  induction bytes with
  | nil => rfl
  | cons b bs ih =>
    rw [txBits] at ih ⊢
    rw [List.flatMap_cons, List.length_append, ih, length_characterBits, List.length_cons]
    omega

/-- TXD without a frame, and while RESETn is low. -/
theorem txdAt_idle {s : State} (h : s.resetLow = true ∨ s.ntq.tx = none) (t : Nat) : txdAt s t = true := by
  obtain h | h := h
  · exact if_pos h
  · simp [txdAt, outboundBytes, h]

/-- TXD in the course of a frame. -/
theorem txdAt_frame {s : State} {f : TxFrame} (hl : s.resetLow = false) (hf : s.ntq.tx = some f) (t : Nat) :
    txdAt s t = (txBits (wireBytes f.frame))[t]?.getD true := by
  simp [txdAt, outboundBytes, hl, hf]

/-- TXD at a bit time of a character (R148). -/
theorem txdAt_character {s : State} {f : TxFrame} {i j : Nat} {b : Byte} {v : Bool} (hl : s.resetLow = false)
    (hf : s.ntq.tx = some f) (hb : (wireBytes f.frame)[i]? = some b) (hj : j < 10) (hv : (characterBits b)[j]? = some v) :
    txdAt s (10 * i + j) = v := by
  rw [txdAt_frame hl hf, txBits, getElem?_flatMap_block length_characterBits _ i hj, hb, Option.bind_some, hv,
    Option.getD_some]

/-- Settles O60: the pins by the line state, the phases by the half bit time, the tick by the line state, and TXD by the
place in a character. -/
theorem pinsFollowTheState : Obligations.PinsFollowTheState := by
  refine ⟨bde_iff, fun s => btx_idle, fun seg k h v s => btx_cell, length_segmentCells, ?phases, ?tick, ?txd⟩
  case phases =>
    refine fun p t => ⟨sendPhaseAt_lead, fun k hk => ⟨sendPhaseAt_cell false hk, sendPhaseAt_cell true hk⟩,
      sendPhaseAt_lag, sendPhaseAt_none, fun phase h3 ht hphase => ?_⟩
    obtain ⟨phase', hnow, hnext⟩ := sendPhaseAt_succ h3 ht
    cases hphase.symm.trans hnow
    exact hnext
  case tick =>
    refine fun s => ⟨tick_held, fun hh => ⟨?_, fun seg phase hl => ?_, fun slot phase hl ho => ?_, fun slot r hl => ?_⟩⟩
    · rintro (hl | hl) <;> exact tick_still hh (by rw [hl]; rfl)
    · rw [tick_running hh, hl, tickLine, length_segmentCells]
    · exact tick_still hh (by rw [hl]; exact if_pos ho)
    · rw [tick_running hh, hl]
      rfl
  case txd =>
    refine fun t s => ⟨fun h => txdAt_idle h t, fun f hl hf => ⟨fun i b hb => ⟨?_, fun j hj => ?_, ?_⟩, fun ht => ?_⟩⟩
    · exact txdAt_character (j := 0) hl hf hb (by omega) rfl
    · rw [Nat.add_assoc]
      exact txdAt_character hl hf hb (by omega) (characterBits_data b hj)
    · exact txdAt_character hl hf hb (by omega) (characterBits_stop b)
    · rw [txdAt_frame hl hf, List.getElem?_eq_none (by rw [length_txBits]; exact ht), Option.getD_none]

end Sys2Proof.Machine
end

section
/-! No operation of the model touches the queue of waiting commands, and every command answers a next state (R134, R156,
R157, R165; log 2). -/

namespace Sys2Proof.Machine

-- One proof after another, not in parallel: the whole text compiles under a bound on memory.
set_option Elab.async false

/-! ### Notices and replies -/

@[simp] theorem attnOnLeave_pending (s : State) : (attnOnLeave s).pending = s.pending := by
  unfold attnOnLeave
  (repeat' split) <;> rfl

@[simp] theorem refuse_pending (f : Frame) (made dropped : Option GlobalCounter) (s : State) :
    (refuse f made dropped s).pending = s.pending := by
  simp only [refuse]
  (repeat' split) <;> rfl

/-- A run of operations that each leave the queue of waiting commands alone leaves it alone. -/
theorem foldl_pending {α : Type} {f : State → α → State} (hf : ∀ s x, (f s x).pending = s.pending) (xs : List α)
    (s : State) : (xs.foldl f s).pending = s.pending := by
  induction xs generalizing s with
  | nil => rfl
  | cons x xs ih => rw [List.foldl_cons, ih, hf]

/-! ### Downlink Delivery (spec/05) -/

@[simp] theorem endMessages_pending (hs : List Nat) (r : Result) (w : Reason) (s : State) :
    (endMessages hs r w s).pending = s.pending := foldl_pending (by simp) hs s

@[simp] theorem handOver_pending (seg : Segment) (s : State) : (handOver seg s).pending = s.pending := rfl

@[simp] theorem sendData_pending (a : Nat) (st : Station) (r : InFlight) (m : Message) (s : State) :
    (sendData a st r m s).pending = s.pending := by
  unfold sendData
  split <;> simp

@[simp] theorem downSlot_pending (owner : Nat) (s : State) : (downSlot owner s).pending = s.pending := by
  unfold downSlot broadcastDownSlot stationDownSlot
  (repeat' split) <;> simp

@[simp] theorem takeAnswer_pending (a : Nat) (ans : Option Answer) (s : State) :
    (takeAnswer a ans s).pending = s.pending := by
  unfold takeAnswer judgeAcked judgeBusy judgeUnanswered onInFlight
  (repeat' split) <;> simp

@[simp] theorem acceptSend_pending (body : List Byte) (s : State) : (acceptSend body s).1.pending = s.pending := by
  simp [acceptSend]

@[simp] theorem takeSend_pending (tag : Byte) (body : List Byte) (s : State) :
    (takeSend tag body s).pending = s.pending := by
  unfold takeSend
  split <;> simp

@[simp] theorem takeCancel_pending (tag : Byte) (body : List Byte) (s : State) :
    (takeCancel tag body s).pending = s.pending := by
  simp only [takeCancel]
  (repeat' split) <;> simp

@[simp] theorem takeFlush_pending (tag : Byte) (body : List Byte) (s : State) :
    (takeFlush tag body s).pending = s.pending := by
  simp only [takeFlush]
  (repeat' split) <;> simp

@[simp] theorem takeMsgStatus_pending (tag : Byte) (body : List Byte) (s : State) :
    (takeMsgStatus tag body s).pending = s.pending := by
  unfold takeMsgStatus
  split <;> rfl

/-! ### Schedule Banks (spec/02) -/

@[simp] theorem rewindUnscheduled_pending (s : State) : (rewindUnscheduled s).pending = s.pending := by
  have hstation : ∀ (t : State) (a : Nat),
      (if ownsDown s.sbk.active a then t else onStation a rewindStation t).pending = t.pending := by
    intro t a
    split <;> simp
  unfold rewindUnscheduled
  split <;> exact foldl_pending hstation _ s

@[simp] theorem swap_pending (s : State) : (swap s).pending = s.pending := rewindUnscheduled_pending _

@[simp] theorem swapPending_pending (s : State) : (swapPending s).pending = s.pending := by
  unfold swapPending
  split <;> simp

@[simp] theorem takeSchedEdit_pending (tag : Byte) (body : List Byte) (s : State) :
    (takeSchedEdit tag body s).pending = s.pending := by
  simp only [takeSchedEdit]
  (repeat' split) <;> rfl

@[simp] theorem takeSchedRead_pending (tag : Byte) (body : List Byte) (s : State) :
    (takeSchedRead tag body s).pending = s.pending := by
  simp only [takeSchedRead]
  split <;> rfl

@[simp] theorem takeSchedCommit_pending (tag : Byte) (s : State) : (takeSchedCommit tag s).pending = s.pending := by
  unfold takeSchedCommit
  (repeat' split) <;> simp

/-! ### The Station Table (spec/03) -/

@[simp] theorem endQueue_pending (queue : List Nat) (w : Reason) (behind : Bool) (s : State) :
    (endQueue queue w behind s).pending = s.pending := by
  unfold endQueue
  (repeat' split) <;> simp

@[simp] theorem lose_pending (a : Nat) (st : Station) (s : State) : (lose a st s).pending = s.pending := by
  unfold lose
  split <;> simp

@[simp] theorem evaluateHeard_pending (a : Nat) (st : Station) (s : State) :
    (evaluateHeard a st s).pending = s.pending := by
  simp only [evaluateHeard]
  (repeat' split) <;> simp

@[simp] theorem evaluateMissed_pending (a : Nat) (st : Station) (s : State) :
    (evaluateMissed a st s).pending = s.pending := by
  simp only [evaluateMissed]
  (repeat' split) <;> simp

@[simp] theorem evaluate_pending (b : Bank) (a : Nat) (s : State) : (evaluate b a s).pending = s.pending := by
  unfold evaluate
  (repeat' split) <;> simp

@[simp] theorem evaluatePresence_pending (s : State) : (evaluatePresence s).pending = s.pending := by
  rw [evaluatePresence, clearHeard, onStations_pending]
  exact foldl_pending (fun t a => evaluate_pending _ a t) _ s

@[simp] theorem addStranger_pending (a : Nat) (cls : Byte) (why : StrangerReason) (s : State) :
    (addStranger a cls why s).pending = s.pending := by
  unfold addStranger
  split <;> simp

@[simp] theorem removeStranger_pending (a : Nat) (s : State) : (removeStranger a s).pending = s.pending := rfl

@[simp] theorem takeEnroll_pending (tag : Byte) (body : List Byte) (s : State) :
    (takeEnroll tag body s).pending = s.pending := by
  simp only [takeEnroll]
  (repeat' split) <;> simp

@[simp] theorem takeRetire_pending (tag : Byte) (body : List Byte) (s : State) :
    (takeRetire tag body s).pending = s.pending := by
  simp only [takeRetire]
  (repeat' split) <;> simp

@[simp] theorem takeStationQuery_pending (tag : Byte) (body : List Byte) (s : State) :
    (takeStationQuery tag body s).pending = s.pending := by
  simp only [takeStationQuery]
  (repeat' split) <;> rfl

@[simp] theorem takeStrangers_pending (tag : Byte) (s : State) : (takeStrangers tag s).pending = s.pending := rfl

/-! ### The Uplink Receiver and the Admission Unit (spec/04, spec/06) -/

@[simp] theorem complete_pending (a : Nat) (bytes : List Byte) (s : State) :
    (complete a bytes s).pending = s.pending := by
  simp only [complete]
  split <;> simp

@[simp] theorem acceptSegment_pending (a : Nat) (st : Station) (seg : Segment) (s : State) :
    (acceptSegment a st seg s).pending = s.pending := by
  simp only [acceptSegment]
  (repeat' split) <;> simp

@[simp] theorem takeInSequence_pending (a : Nat) (st : Station) (seg : Segment) (s : State) :
    (takeInSequence a st seg s).pending = s.pending := by
  simp only [takeInSequence, answerBusy]
  (repeat' split) <;> simp

@[simp] theorem takeData_pending (a : Nat) (seg : Segment) (s : State) : (takeData a seg s).pending = s.pending := by
  unfold takeData
  (repeat' split) <;> simp

@[simp] theorem judgeCurrent_pending (a : Nat) (st : Station) (seg : Segment) (s : State) :
    (judgeCurrent a st seg s).pending = s.pending := by
  simp only [judgeCurrent]
  (repeat' split) <;> simp

@[simp] theorem judgeGood_pending (a : Nat) (st : Station) (seg : Segment) (s : State) :
    (judgeGood a st seg s).pending = s.pending := by
  unfold judgeGood
  (repeat' split) <;> simp

@[simp] theorem judgeUpSlot_pending (a : Nat) (cls : RxClass) (s : State) :
    (judgeUpSlot a cls s).pending = s.pending := by
  unfold judgeUpSlot
  (repeat' split) <;> simp

@[simp] theorem settle_pending (slot : RxSlot) (r : Reception) (s : State) : (settle slot r s).pending = s.pending := by
  simp only [settle]
  split <;> rfl

/-- A report leaves the queue of waiting commands alone where the block it serves does (R142). -/
theorem takeReport_pending {slot : RxSlot} {edges : List Edge} {upTo : Nat} {judge : RxClass → State → State}
    {s t : State} (hjudge : ∀ cls u, (judge cls u).pending = u.pending) (h : takeReport slot edges upTo judge s = some t) :
    t.pending = s.pending := by
  obtain hnone | ⟨phase, -, -, ⟨r, -, hsome⟩ | ⟨-, hsome⟩⟩ := takeReport_cases slot edges upTo judge s
  · cases hnone.symm.trans h
  · cases hsome.symm.trans h
    rw [hjudge, settle_pending]
  · cases hsome.symm.trans h
    rfl

@[simp] theorem takeFetch_pending (tag : Byte) (body : List Byte) (s : State) :
    (takeFetch tag body s).pending = s.pending := by
  simp only [takeFetch]
  (repeat' split) <;> rfl

@[simp] theorem setAdmission_pending (r : AdmitResult) (e : Nat) (s : State) :
    (setAdmission r e s).pending = s.pending := rfl

@[simp] theorem acceptJoin_pending (a : Nat) (cls : Byte) (st : Station) (s : State) :
    (acceptJoin a cls st s).pending = s.pending := by
  unfold acceptJoin
  split <;> simp

@[simp] theorem resolveJoin_pending (a : Nat) (cls : Byte) (s : State) :
    (resolveJoin a cls s).pending = s.pending := by
  unfold resolveJoin
  (repeat' split) <;> simp

@[simp] theorem resolveAdmit_pending (cls : RxClass) (s : State) : (resolveAdmit cls s).pending = s.pending := by
  unfold resolveAdmit
  (repeat' split) <;> simp

/-! ### The Cycle Engine (spec/01) -/

@[simp] theorem beginCycle_pending (cycle : Byte) (s : State) : (beginCycle cycle s).pending = s.pending := rfl

@[simp] theorem startSlot_pending (s : State) : (startSlot s).pending = s.pending := by
  unfold startSlot
  split <;> simp

@[simp] theorem endCycle_pending (s : State) : (endCycle s).pending = s.pending := by simp [endCycle]

@[simp] theorem completeStop_pending (s : State) : (completeStop s).pending = s.pending := by
  simp [completeStop, leaveRun, returnContexts, rewindBroadcast]

@[simp] theorem beginRun_pending (s : State) : (beginRun s).pending = s.pending := by simp [beginRun]

@[simp] theorem endListening_pending (s : State) : (endListening s).pending = s.pending := rfl

@[simp] theorem takeStart_pending (tag : Byte) (s : State) : (takeStart tag s).pending = s.pending := by
  unfold takeStart
  split <;> rfl

@[simp] theorem takeStop_pending (tag : Byte) (s : State) : (takeStop tag s).pending = s.pending := by
  unfold takeStop
  split <;> simp

@[simp] theorem abortSegment_pending (seg : Segment) (s : State) : (abortSegment seg s).pending = s.pending := by
  simp only [abortSegment, busFault]
  split <;> simp

/-! ### The Host Link (spec/08) -/

@[simp] theorem afterByte_pending (rx : FrameRx) (s : State) : (afterByte rx s).pending = s.pending := rfl

@[simp] theorem acceptFrame_pending (r : Request) (s : State) : (acceptFrame r s).pending = s.pending := by
  unfold acceptFrame
  split <;> simp

@[simp] theorem frameSent_pending (src : TxSource) (s : State) : (frameSent src s).pending = s.pending := by
  unfold frameSent replySent noticeSent overflowSent
  (repeat' split) <;> simp

/-! ### The Request Executor (spec/09) -/

@[simp] theorem applySettings_pending (c : Settings) (s : State) : (applySettings c s).pending = s.pending := by
  unfold applySettings changeAttnMode
  split <;> rfl

@[simp] theorem takeConfigure_pending (tag : Byte) (body : List Byte) (s : State) :
    (takeConfigure tag body s).pending = s.pending := by
  unfold takeConfigure
  (repeat' split) <;> simp

@[simp] theorem takeCounters_pending (tag : Byte) (body : List Byte) (s : State) :
    (takeCounters tag body s).pending = s.pending := by
  simp only [takeCounters]
  (repeat' split) <;> simp

@[simp] theorem takeReset_pending (tag : Byte) (body : List Byte) (s : State) :
    (takeReset tag body s).pending = s.pending := by
  unfold takeReset
  split <;> rfl

@[simp] theorem takeGrant_pending (tag : Byte) (body : List Byte) (s : State) :
    (takeGrant tag body s).pending = s.pending := by
  simp only [takeGrant]
  split <;> rfl

/-! ### Taking a command -/

/-- A command answers a next state and leaves the waiting commands alone. -/
def AnswersNext (o : Out) (s : State) : Prop := ∃ t, o = .next t ∧ t.pending = s.pending

/-- A command answers a next state whether its change happens or not, and the arbiter leaves the waiting commands alone
(R188; log 1). -/
theorem answersNext_perform {change : Option State} {s : State}
    (h : ∀ u, change = some u → u.pending = s.pending) : AnswersNext (perform change s) s := by
  obtain hn | ⟨-, u, hu, hn⟩ := perform_next change s
  · exact ⟨s, hn, rfl⟩
  · exact ⟨_, hn, (arbitrate_pending u).trans (h u hu)⟩

/-- A guarded change. -/
theorem answersNext_perform_ite {P : Prop} [Decidable P] {u s : State} (h : u.pending = s.pending) :
    AnswersNext (perform (if P then some u else none) s) s :=
  answersNext_perform fun v hv => by
    split at hv <;> cases hv
    exact h

/-- A request is answered by its owner, refused for its length, or not taken (R165). -/
theorem answersNext_request {kind tag : Byte} {body : List Byte} {owner : State → State} {s : State}
    (h : ∀ u, (owner u).pending = u.pending) : AnswersNext (request kind tag body owner s) s := by
  refine answersNext_perform fun u hu => ?_
  unfold takeRequest at hu
  split at hu
  · split at hu <;> cases hu
    split
    · exact h _
    · rfl
  · cases hu

/-- A reset takes effect or is not due (R177). -/
theorem answersNext_takeEffect {scope : Scope} {effect : State → State} {s : State}
    (h : (effect s).pending = s.pending) : AnswersNext (takeEffect scope effect s) s := by
  unfold takeEffect
  split
  · exact ⟨_, rfl, (arbitrate_pending _).trans h⟩
  · exact ⟨s, rfl, rfl⟩

/-- A power-on, a pin reset and a RESETn held low leave the waiting commands alone (log 2). -/
theorem answersNext_resetBlocks (hlk : Hlk) (startUp : Option Cause) (low : Bool) (s : State) :
    AnswersNext (.next (arbitrate (resetBlocks hlk startUp low s))) s := ⟨_, rfl, arbitrate_pending _⟩

theorem answersNext_exec (c : Instr) (s : State) : AnswersNext (exec c s) s := by
  cases c with
  | powerOn | pinReset => exact answersNext_resetBlocks _ _ _ s
  | resetnLow n =>
    change AnswersNext (if resetHolds n then _ else _) s
    split <;> exact ⟨_, rfl, rfl⟩
  | identify | status | readConfig => exact answersNext_request fun _ => rfl
  | configure tag body => exact answersNext_request (takeConfigure_pending tag body)
  | counters tag body => exact answersNext_request (takeCounters_pending tag body)
  | reset tag body => exact answersNext_request (takeReset_pending tag body)
  | start tag => exact answersNext_request (takeStart_pending tag)
  | stop tag => exact answersNext_request (takeStop_pending tag)
  | schedEdit tag body => exact answersNext_request (takeSchedEdit_pending tag body)
  | schedRead tag body => exact answersNext_request (takeSchedRead_pending tag body)
  | schedCommit tag => exact answersNext_request (takeSchedCommit_pending tag)
  | enroll tag body => exact answersNext_request (takeEnroll_pending tag body)
  | retire tag body => exact answersNext_request (takeRetire_pending tag body)
  | stationQuery tag body => exact answersNext_request (takeStationQuery_pending tag body)
  | strangers tag => exact answersNext_request (takeStrangers_pending tag)
  | send tag body => exact answersNext_request (takeSend_pending tag body)
  | cancel tag body => exact answersNext_request (takeCancel_pending tag body)
  | flush tag body => exact answersNext_request (takeFlush_pending tag body)
  | msgStatus tag body => exact answersNext_request (takeMsgStatus_pending tag body)
  | fetch tag body => exact answersNext_request (takeFetch_pending tag body)
  | grant tag body => exact answersNext_request (takeGrant_pending tag body)
  | unknownRequestKind =>
    refine answersNext_perform fun u hu => ?_
    split at hu
    · split at hu <;> cases hu
      rfl
    · cases hu
  | goodFrame | checkError =>
    refine answersNext_perform fun u hu => ?_
    split at hu <;> cases hu
    simp
  | frameByteTaken =>
    refine answersNext_perform fun u hu => ?_
    split at hu
    · obtain ⟨rx, -, rfl⟩ := Option.map_eq_some_iff.mp hu
      rfl
    · cases hu
  | frameSent =>
    refine answersNext_perform fun u hu => ?_
    obtain ⟨f, -, rfl⟩ := Option.map_eq_some_iff.mp hu
    exact frameSent_pending _ _
  | lengthError | huntByteDiscarded | gapTimeout | characterError | breakDetected | characterStartEdge | rxdReturnsHigh
  | attnPulseExpiry => exact answersNext_perform_ite rfl
  | listeningExpiry => exact answersNext_perform_ite (beginRun_pending s)
  | carrier => exact answersNext_perform_ite (joinEither_pending _ _ _)
  | slotStart => exact answersNext_perform_ite (startSlot_pending s)
  | cycleEnd => exact answersNext_perform_ite (endCycle_pending s)
  | stopCompletion => exact answersNext_perform_ite (completeStop_pending s)
  | transmissionCompleted =>
    refine answersNext_perform fun u hu => ?_
    split at hu <;> cases hu
    rfl
  | echoMismatch =>
    refine answersNext_perform fun u hu => ?_
    split at hu
    · split at hu <;> cases hu
      exact abortSegment_pending _ s
    all_goals cases hu
  | upSlotReport => exact answersNext_perform fun u => takeReport_pending (judgeUpSlot_pending _)
  | admitSlotReport => exact answersNext_perform fun u => takeReport_pending resolveAdmit_pending
  | fullReset =>
    change AnswersNext (execFullReset s) s
    exact answersNext_takeEffect rfl
  | busReset =>
    change AnswersNext (execBusReset s) s
    exact answersNext_takeEffect (joinEither_pending _ _ _)
  | linkReset =>
    change AnswersNext (execLinkReset s) s
    exact answersNext_takeEffect rfl

/-- Settles O2: each command by the form it is taken in, with what its change leaves of the queue. -/
theorem everyCommandAnswersANextState : Obligations.EveryCommandAnswersANextState := answersNext_exec

end Sys2Proof.Machine
end

section
/-! The receive part class by class: what a run of cells spells, what a receive part keeps while it hears them, and the class of
every kind of part (R129 to R142, R196). -/

namespace Sys2Proof.Machine

-- One proof after another, not in parallel: the whole text compiles under a bound on memory.
set_option Elab.async false

/-! ### What a receive part found, in the terms of the claims -/

/-- A whole receive part ends in a class, settled by its closing or before it (R142). -/
def Ends (edges : List Edge) (cls : RxClass) (atClose : Bool) : Prop :=
  (receivePart edges).cls = cls ∧ (receivePart edges).atClose = atClose

/-- What LIF keeps with the class: the dated beginning and the cells (R129, R136). -/
def Keeps (edges : List Edge) (dated : Nat) (cells : List Bool) : Prop :=
  (receivePart edges).dated = some (dated : Int) ∧ (receivePart edges).cells = cells

/-- A part heard to its closing. -/
theorem receivePart_of_hear {edges : List Edge} {r : Reception} (h : hear edges closing (.wait []) = .settled r) :
    receivePart edges = r := by
  rw [hear_closing] at h
  exact RxPhase.settled.inj h

/-- Level changes from bit time 152 on lie outside the part (R142). -/
theorem receivePart_eq_foldl (edges : List Edge) : receivePart edges = closePart (closeSpans cellFuel (closing + 1)
    ((edges.filter fun e => decide (e.time < closing)).foldl hearEdge (.wait []))) := by
  have hfilter : (fun e : Edge => decide (e.time ≤ closing) && decide (e.time < closing)) =
      fun e => decide (e.time < closing) := by
    funext e
    rw [← Bool.decide_and, decide_eq_decide]
    omega
  simp only [receivePart, hear, hfilter, Nat.min_self, le_refl, if_true]
  rfl

theorem receivePart_of_lt {edges : List Edge} (h : ∀ e ∈ edges, e.time < closing) :
    receivePart edges = closePart (closeSpans cellFuel (closing + 1) (edges.foldl hearEdge (.wait []))) := by
  rw [receivePart_eq_foldl, List.filter_eq_self.mpr fun e he => decide_eq_true (h e he)]

/-- Only the level changes before bit time 152 count (R142). -/
theorem receivePart_filter (edges : List Edge) :
    receivePart (edges.filter fun e => decide (e.time < closing)) = receivePart edges := by
  rw [receivePart_eq_foldl, receivePart_eq_foldl, List.filter_filter]
  simp only [Bool.and_self]

/-! ### The bits of a segment (R131, R196) -/

/-- The bits of a number's field, most significant first (R130). -/
theorem bitsOf_ofNat (w n : Nat) : bitsOf (BitVec.ofNat w n) = (List.range w).map fun i => n.testBit (w - 1 - i) := by
  rw [bitsOf_eq_map_getLsbD]
  refine List.map_congr_left fun i hi => ?_
  have hw : w - 1 - i < w := by have := List.mem_range.mp hi; omega
  rw [BitVec.getLsbD_ofNat, decide_eq_true hw, Bool.true_and]

theorem bitsOf_toNat {w : Nat} (x : BitVec w) : bitsOf x = (List.range w).map fun i => x.toNat.testBit (w - 1 - i) := by
  rw [← bitsOf_ofNat, BitVec.ofNat_toNat, BitVec.setWidth_eq]

/-! ### What a run of cells spells -/

/-- The last of these cells settles the class, in a span that ends at the cell's boundary (R138, R141). -/
def SettledBy (st : RxStage) (cells : List Bool) (r : RxClass × List Bool) : Prop :=
  ∃ init last st', cells = init ++ [last] ∧ takeCells st init = .inr st' ∧ takeCell st' last = .inl r ∧
    ∀ centre, spanEnd st' centre = centre + 500

theorem SettledBy.ne_nil {st : RxStage} {cells : List Bool} {r : RxClass × List Bool} (h : SettledBy st cells r) :
    cells ≠ [] := by
  obtain ⟨init, last, st', rfl, -⟩ := h
  simp

/-- A run of cells that settles nothing settles nothing on its way. -/
theorem takeCells_append_inr {st st' : RxStage} {xs ys : List Bool} (h : takeCells st (xs ++ ys) = .inr st') :
    ∃ u, takeCells st xs = .inr u ∧ takeCells u ys = .inr st' := by
  rw [takeCells_append] at h
  cases hx : takeCells st xs with
  | inl r => rw [hx] at h; cases h
  | inr u => rw [hx] at h; exact ⟨u, rfl, h⟩

/-- Some of the cells leave a stage from which the others settle the class. -/
theorem SettledBy.split {st : RxStage} {xs ys : List Bool} {r : RxClass × List Bool} (h : SettledBy st (xs ++ ys) r)
    (hy : ys ≠ []) : ∃ u, takeCells st xs = .inr u ∧ SettledBy u ys r := by
  obtain ⟨init, last, st', he, hi, hl, hs⟩ := h
  obtain ⟨ys, z, rfl⟩ : ∃ zs z, ys = zs ++ [z] := ⟨_, _, (List.dropLast_append_getLast hy).symm⟩
  rw [← List.append_assoc] at he
  obtain ⟨rfl, hz⟩ := List.append_inj' he rfl
  cases hz
  obtain ⟨u, hu, hu'⟩ := takeCells_append_inr hi
  exact ⟨u, hu, ys, last, st', rfl, hu', hl, hs⟩

/-- The last cell. -/
theorem SettledBy.single {st : RxStage} {c : Bool} {r : RxClass × List Bool} (h : SettledBy st [c] r) :
    takeCell st c = .inl r ∧ ∀ centre, spanEnd st centre = centre + 500 := by
  obtain ⟨init, last, st', he, hi, hl, hs⟩ := h
  obtain ⟨rfl, rfl⟩ : init = [] ∧ last = c := by
    cases init with
    | nil => simpa using he.symm
    | cons x xs => simp at he
  cases hi
  exact ⟨hl, hs⟩

/-- A cell before the last. -/
theorem SettledBy.next {st : RxStage} {c : Bool} {cells : List Bool} {r : RxClass × List Bool}
    (h : SettledBy st (c :: cells) r) (hne : cells ≠ []) :
    ∃ st', takeCell st c = .inr st' ∧ SettledBy st' cells r ∧ ∀ centre, spanEnd st centre = centre + 625 := by
  obtain ⟨u, hu, hr⟩ := SettledBy.split (xs := [c]) h hne
  unfold takeCells at hu
  split at hu
  · cases hu
  · rename_i st' hc
    cases hu
    exact ⟨_, hc, hr, takeCell_spanEnd hc⟩

/-- The stage from which four alternating cells of a preamble have locked the part (R136). -/
def lockStage : RxStage := .preamble 0 [false, true, false, true]

/-- The cells start as a preamble does, and the last of them settles the class, with every cell kept. -/
def Spells (cells : List Bool) (cls : RxClass) : Prop :=
  ∃ rest, cells = true :: false :: true :: false :: rest ∧ SettledBy lockStage rest (cls, cells)

/-- The last CRC cell settles the class (R141). -/
theorem takeCell_restLast (lead cells : List Bool) (c : Bool) : takeCell (.rest 1 lead cells) c =
    .inl (classOfCells (c :: cells).reverse, decodedCells (.rest 1 lead cells) ++ [c]) := by
  simp [takeCell, decodedCells]

/-- A preamble and its delimiter, a header that is not MALFORMED, a payload of its length and a CRC spell the class of the
header, payload and CRC (R139 to R141). -/
theorem spells_of_header {pre lead header body : List Bool} {crc : Half} {p : Nat}
    (hpre : takeCells lockStage pre = .inr (.header 32 lead [])) (hh : header.length = 32)
    (hafter : cellsAfterHeader header = some (8 * p + 16)) (hb : body.length = 8 * p) :
    Spells (true :: false :: true :: false :: (pre ++ header ++ body ++ bitsOf crc))
      (classOfCells (header ++ body ++ bitsOf crc)) := by
  obtain ⟨init, last, hcrc⟩ : ∃ init last, bitsOf crc = init ++ [last] :=
    ⟨_, _, (List.dropLast_append_getLast (List.ne_nil_of_length_pos (by simp))).symm⟩
  have hi : init.length = 15 := by simpa using (congrArg List.length hcrc).symm
  have hbody := takeCells_body (lead := lead) (body := body ++ init) (l := 1) hh hafter (by omega)
    (by rw [List.length_append]; omega)
  have hmid : takeCells lockStage (pre ++ header ++ body ++ init) =
      .inr (.rest 1 lead ((body ++ init).reverse ++ header.reverse)) := by
    rw [List.append_assoc, List.append_assoc, takeCells_append, hpre]
    exact hbody
  have hcovered : (last :: ((body ++ init).reverse ++ header.reverse)).reverse = header ++ body ++ bitsOf crc := by
    simp [hcrc]
  have hlast := takeCell_restLast lead ((body ++ init).reverse ++ header.reverse) last
  rw [takeCells_decoded hmid, hcovered] at hlast
  refine ⟨_, rfl, pre ++ header ++ body ++ init, last, _, by simp [hcrc], hmid, ?_, fun _ => rfl⟩
  rw [hlast]
  simp [lockStage, decodedCells, hcrc]

/-- Up to two pairs of preamble cells more, the preamble and the delimiter lead from lock to the header (R139). -/
theorem takeCells_longerPreamble {more : Nat} (h : more ≤ 2) :
    takeCells lockStage (((List.replicate more [true, false]).flatten ++ (preambleCells ++ delimiterCells)).drop 4) =
      .inr (.header 32 ((List.replicate more [true, false]).flatten ++ (preambleCells ++ delimiterCells)).reverse []) := by
  interval_cases more <;> decide

/-- The first four cells of such a preamble. -/
theorem longerPreamble_eq_cons {more : Nat} (h : more ≤ 2) :
    (List.replicate more [true, false]).flatten ++ (preambleCells ++ delimiterCells) = true :: false :: true :: false ::
      ((List.replicate more [true, false]).flatten ++ (preambleCells ++ delimiterCells)).drop 4 := by
  interval_cases more <;> decide

/-- A preamble that is up to two pairs longer is as good (R139). -/
theorem spells_cells {more p : Nat} {header body : List Bool} {crc : Half} (hm : more ≤ 2) (hh : header.length = 32)
    (hafter : cellsAfterHeader header = some (8 * p + 16)) (hb : body.length = 8 * p) :
    Spells ((List.replicate more [true, false]).flatten ++
        (preambleCells ++ delimiterCells ++ header ++ body ++ bitsOf crc))
      (classOfCells (header ++ body ++ bitsOf crc)) := by
  have h := spells_of_header (crc := crc) (takeCells_longerPreamble hm) hh hafter hb
  simp only [← List.cons_append, ← longerPreamble_eq_cons hm] at h
  simpa only [List.append_assoc] using h

/-- The class of header, payload and CRC (R141). -/
theorem classOfCells_crc (covered : List Bool) (crc : Half) : classOfCells (covered ++ bitsOf crc) =
    if segmentCrc covered = crc then (segmentOf covered).elim .malformed .good else .crcBad := by
  simp only [classOfCells, List.length_append, length_bitsOf, Nat.add_sub_cancel, List.take_left', List.drop_left',
    fieldOf_bitsOf]
  split
  · cases segmentOf covered <;> rfl
  · rfl

/-- A segment's own cells spell it, behind a preamble up to two pairs longer too (R131, R139, R141). -/
theorem spells_segment {seg : Segment} {more : Nat} (hp : seg.payload.length ≤ 8) (hm : more ≤ 2) :
    Spells ((List.replicate more [true, false]).flatten ++ segmentCells seg) (.good seg) := by
  have h := spells_cells (crc := segmentCrc (coveredBits seg)) hm (length_headerBits seg)
    (cellsAfterHeader_headerBits hp) (length_bitsOfBytes seg.payload)
  rw [← coveredBits, classOfCells_crc, if_pos rfl, segmentOf_coveredBits hp, Option.elim_some] at h
  simpa only [segmentCells, coveredBits, List.append_assoc] using h

theorem spells_segmentCells {seg : Segment} (hp : seg.payload.length ≤ 8) : Spells (segmentCells seg) (.good seg) :=
  spells_segment (more := 0) hp (by omega)

/-! ### Whole segments (R136 to R141) -/

/-- What a receive part finds of cells sent from a time on that spell a class. -/
def found (half t : Nat) (cells : List Bool) (cls : RxClass) : Reception :=
  { cls := cls, noise := true, atClose := false, dated := some ((t + half : Int) - 500),
    centre := some (t + 2 * half * cells.length - half + 1000), cells := cells }

/-- The cells between the lock run and the last one, which settles the class. -/
theorem Spells.cases {cells : List Bool} {cls : RxClass} (h : Spells cells cls) :
    ∃ mid last st, cells = true :: false :: true :: false :: (mid ++ [last]) ∧ cells.length = mid.length + 5 ∧ mid ≠ [] ∧
      takeCells lockStage mid = .inr st ∧ takeCell st last = .inl (cls, cells) ∧
      ∀ centre, spanEnd st centre = centre + 500 := by
  obtain ⟨rest, hcells, mid, last, st, rfl, hmid, hlast, hspan⟩ := h
  refine ⟨mid, last, st, hcells, by simp [hcells], ?_, hmid, hlast, hspan⟩
  rintro rfl
  cases hmid
  simpa [lockStage, spanEnd] using hspan 0

/-- Cells that spell a class, sent by a station whose clock is up to 8 % slow or fast, settle it at the end of the last cell's
span (R136 to R141). -/
theorem Spells.hear_eq {cells : List Bool} {cls : RxClass} {half t upTo : Nat} (h : Spells cells cls) (hh : GoodHalf half)
    (ht : t + half < 16500) (hend : t + 2 * half * cells.length + 1500 < closing + 3 * half)
    (hu : t + 2 * half * cells.length + 1500 ≤ upTo + 3 * half) :
    hear (cellEdges half t cells) upTo (.wait []) = .settled (found half t cells cls) := by
  obtain ⟨mid, last, st, hcells, hfive, hne, hmid, hlast, hspan⟩ := h.cases
  have hlen : 2 * half * cells.length = 2 * half * mid.length + 10 * half := by rw [hfive]; ring
  have hheard := hear_cells_settled (v := true) (more := []) (upTo := upTo) hh ht hne rfl hmid hlast
    (by rw [hspan]; omega) (by rw [hspan]; omega)
  simp only [Bool.not_true, ← hcells] at hheard
  rw [hheard, found, hlen]
  congr 3
  omega

/-- Before that nothing is settled. -/
theorem Spells.hear_open {cells : List Bool} {cls : RxClass} {half t upTo : Nat} (h : Spells cells cls)
    (hh : GoodHalf half) (ht : t + half < 16500) (hend : t + 2 * half * cells.length + 1500 < closing + 3 * half)
    (hu : upTo + 3 * half < t + 2 * half * cells.length + 1500) (r : Reception) :
    hear (cellEdges half t cells) upTo (.wait []) ≠ .settled r := by
  obtain ⟨mid, last, st, hcells, hfive, hne, hmid, hlast, hspan⟩ := h.cases
  have hlen : 2 * half * cells.length = 2 * half * mid.length + 10 * half := by rw [hfive]; ring
  have hopen := hear_cells_open (v := true) (more := [last]) (upTo := upTo) hh ht hne rfl hmid
    (by rw [hspan]; omega) (by rw [hspan]; omega) r
  simpa only [Bool.not_true, ← hcells] using hopen

theorem Spells.receivePart_eq {cells : List Bool} {cls : RxClass} {half t : Nat} (h : Spells cells cls)
    (hh : GoodHalf half) (ht : t + half < 16500) (hend : t + 2 * half * cells.length + 1500 < closing + 3 * half) :
    receivePart (cellEdges half t cells) = found half t cells cls :=
  receivePart_of_hear (h.hear_eq hh ht hend (by omega))

end Sys2Proof.Machine
end

section
/-! Spans at the head-end's rate: a cell judged, and clean cells up to the one that settles the class (R136 to R141). -/

namespace Sys2Proof.Machine

-- One proof after another, not in parallel: the whole text compiles under a bound on memory.
set_option Elab.async false

/-! ### Spans at the head-end's rate -/

theorem near_iff {a b tolerance : Nat} : near a b tolerance = true ↔ a ≤ b + tolerance ∧ b ≤ a + tolerance := by
  simp only [near, Bool.and_eq_true, decide_eq_true_eq]

theorem near_eq_false_iff {a b tolerance : Nat} :
    near a b tolerance = false ↔ b + tolerance < a ∨ a + tolerance < b := by
  rw [← Bool.not_eq_true, near_iff]
  omega

theorem goodHalf_500 : GoodHalf 500 := by unfold GoodHalf; omega

/-- The cell whose middle lies a bit time after `m` is awaited, and what its span holds so far, left over from the boundary
before it, does not count in its judgement (R138). -/
def Ready (tr : Tracking) (m : Nat) : Prop :=
  tr.centre = m + 1000 ∧ ∀ es : List Edge, (∀ e ∈ es, m + 625 < e.time) →
    judgeCell tr.centre tr.after (tr.span ++ es) = judgeCell (m + 1000) none es

/-- After a cell in the course of a segment nothing is left over. -/
theorem ready_next (dated : Int) (m : Nat) : Ready { dated := dated, centre := m + 1000, after := none, span := [] } m :=
  ⟨rfl, fun _ _ => rfl⟩

/-- After the lock run's fourth cell the level changes of the boundary zone are left over (R138). -/
theorem ready_lock {tr : Tracking} {m : Nat} (hc : tr.centre = m + 1000) (ha : tr.after = some m)
    (hs : ∀ e ∈ tr.span, near e.time (m + 500) 125 = true) : Ready tr m := by
  refine ⟨hc, fun es hes => ?_⟩
  have hlead : tr.span.filter (fun e => !near e.time (m + 500) 125) = [] :=
    List.filter_eq_nil_iff.mpr fun e he => by simp [hs e he]
  have hrest : es.filter (fun e => !near e.time (m + 500) 125) = es := List.filter_eq_self.mpr fun e he => by
    have := hes e he
    rw [Bool.not_eq_true', near_eq_false_iff]
    omega
  simp only [judgeCell, ha, hc, List.filter_append, hlead, hrest, List.nil_append]

theorem closeCell_none {tr : Tracking} {st : RxStage} (h : judgeCell tr.centre tr.after tr.span = none) :
    closeCell tr st = .settled (settledWith .collided false [] tr) := by simp [closeCell, h]

theorem closeCell_settled {tr : Tracking} {st : RxStage} {c : Bool} {x : Nat} {r : RxClass × List Bool}
    (h : judgeCell tr.centre tr.after tr.span = some (c, x)) (ht : takeCell st c = .inl r) :
    closeCell tr st = .settled (settledWith r.1 false r.2 { tr with centre := x + 1000 }) := by
  simp [closeCell, h, ht]

theorem closeCell_next {tr : Tracking} {st st' : RxStage} {c : Bool} {x : Nat}
    (h : judgeCell tr.centre tr.after tr.span = some (c, x)) (ht : takeCell st c = .inr st') :
    closeCell tr st = .decode { dated := tr.dated, centre := x + 1000, after := none, span := [] } st' := by
  simp [closeCell, h, ht]

/-- A span whose cell is judged COLLIDED drops the segment, whatever follows (R138). -/
theorem hear_collided {b m : Nat} {tr : Tracking} {st : RxStage} {inside after : List Edge} (h : StageOk st)
    (hr : Ready tr m) (hj : judgeCell (m + 1000) none inside = none) (hb : spanEnd st (m + 1000) < b)
    (hi : ∀ e ∈ inside, m + 625 < e.time ∧ e.time ≤ spanEnd st (m + 1000))
    (ha : ∀ e ∈ after, spanEnd st (m + 1000) < e.time) :
    closeSpans cellFuel b ((inside ++ after).foldl hearEdge (.decode tr st)) =
      .settled (settledWith .collided false [] tr) := by
  obtain ⟨hc, hlead⟩ := hr
  have hnone : judgeCell tr.centre tr.after (tr.span ++ inside) = none :=
    (hlead inside fun e he => (hi e he).1).trans hj
  rw [hear_span h (by rwa [hc]) (by rw [hc]; exact fun e he => (hi e he).2) (by rwa [hc]),
    closeCell_none (tr := { tr with span := tr.span ++ inside }) hnone]
  simp [settledWith]

/-- A span whose cell is decoded and settles nothing: the later level changes are heard from the next cell on (R138). -/
theorem hear_decoded {b m : Nat} {c : Bool} {tr : Tracking} {st st' : RxStage} {inside after : List Edge}
    (h : StageOk st) (hr : Ready tr m) (hj : judgeCell (m + 1000) none inside = some (c, m + 1000))
    (ht : takeCell st c = .inr st') (hb : m + 1625 < b) (hi : ∀ e ∈ inside, m + 625 < e.time ∧ e.time ≤ m + 1625)
    (ha : ∀ e ∈ after, m + 1625 < e.time) :
    closeSpans cellFuel b ((inside ++ after).foldl hearEdge (.decode tr st)) =
      closeSpans cellFuel b (after.foldl hearEdge
        (.decode { dated := tr.dated, centre := m + 1000 + 1000, after := none, span := [] } st')) := by
  obtain ⟨hc, hlead⟩ := hr
  have hsome : judgeCell tr.centre tr.after (tr.span ++ inside) = some (c, m + 1000) :=
    (hlead inside fun e he => (hi e he).1).trans hj
  have hs : spanEnd st tr.centre = m + 1625 := by rw [takeCell_spanEnd ht, hc]
  rw [hear_span h (by rwa [hs]) (by rw [hs]; exact fun e he => (hi e he).2) (by rwa [hs]),
    closeCell_next (tr := { tr with span := tr.span ++ inside }) hsome ht]

/-- The level changes of a cell's span: its middle and the boundary after it. -/
def cellSpan (m : Nat) (c : Bool) (cells : List Bool) : List Edge :=
  { time := m + 1000, rising := c } :: boundaryEdges 500 (m + 1000) c cells

theorem laterEdges_cons (m : Nat) (c : Bool) (cells : List Bool) :
    laterEdges 500 m (c :: cells) = cellSpan m c cells ++ laterEdges 500 (m + 1000) cells := rfl

theorem cellSpan_time {m : Nat} {c : Bool} {cells : List Bool} :
    ∀ e ∈ cellSpan m c cells, m + 1000 ≤ e.time ∧ e.time ≤ m + 1500 := by
  intro e he
  obtain rfl | he := List.mem_cons.mp he
  · simp
  · have := boundaryEdges_time e he; omega

theorem judgeCell_cellSpan (m : Nat) (c : Bool) (cells : List Bool) :
    judgeCell (m + 1000) none (cellSpan m c cells) = some (c, m + 1000) := (judgeCell_clean goodHalf_500).2

/-- Clean cells up to the one that settles the class (R138 to R141). -/
theorem hear_later {b m : Nat} {tr : Tracking} {st : RxStage} {cells : List Bool} {r : RxClass × List Bool}
    (h : StageOk st) (hr : Ready tr m) (hset : SettledBy st cells r) (hb : m + 1000 * cells.length + 500 < b) :
    closeSpans cellFuel b ((laterEdges 500 m cells).foldl hearEdge (.decode tr st)) =
      .settled (settledWith r.1 false r.2 { tr with centre := m + 1000 * cells.length + 1000 }) := by
  induction cells generalizing tr st m with
  | nil => exact absurd rfl hset.ne_nil
  | cons c cells ih =>
    rw [List.length_cons, Nat.mul_succ, ← Nat.add_assoc] at hb ⊢
    rw [laterEdges_cons]
    by_cases hne : cells = []
    · subst hne
      obtain ⟨htake, hspan⟩ := hset.single
      obtain ⟨hc, hlead⟩ := hr
      have hsome : judgeCell tr.centre tr.after (tr.span ++ cellSpan m c []) = some (c, m + 1000) :=
        (hlead _ fun e he => by have := cellSpan_time e he; omega).trans (judgeCell_cellSpan m c [])
      have hs : spanEnd st tr.centre = m + 1500 := by rw [hspan, hc]
      rw [hear_span h (by rw [hs]; rw [List.length_nil] at hb; omega) (by rw [hs]; exact fun e he => (cellSpan_time e he).2)
          (by simp [laterEdges]),
        closeCell_settled (tr := { tr with span := tr.span ++ cellSpan m c [] }) hsome htake]
      simp [laterEdges, settledWith]
    · obtain ⟨st', htake, hset', -⟩ := hset.next hne
      have hspan : ∀ e ∈ cellSpan m c cells, m + 625 < e.time ∧ e.time ≤ m + 1625 := fun e he => by
        have := cellSpan_time e he
        omega
      have hlater : ∀ e ∈ laterEdges 500 (m + 1000) cells, m + 1625 < e.time := fun e he => by
        have := laterEdges_time e he
        omega
      have hlen : m + 1000 + 1000 * cells.length = m + 1000 * cells.length + 1000 := by omega
      have hpos := List.length_pos_iff.mpr hne
      rw [hear_decoded h hr (judgeCell_cellSpan m c cells) htake (by omega) hspan hlater,
        ih (takeCell_stage h htake).1 (ready_next tr.dated (m + 1000)) hset' (by rwa [hlen]), hlen]
      rfl

/-- Four alternating cells and clean cells after them, if any, leave the part ready for the next one (R136 to R140). -/
theorem hear_ready {t m : Nat} {v : Bool} {mid more : List Bool} {st : RxStage} (ht : t < 16000)
    (hm : m = t + 3500 + 1000 * mid.length) (hmid : takeCells (.preamble 0 [!v, v, !v, v]) mid = .inr st) :
    ∃ tr, Ready tr m ∧ tr.dated = t ∧ ∀ (b : Nat) (tail : List Edge), m + 625 < b → (∀ e ∈ tail, m + 625 < e.time) →
      closeSpans cellFuel b ((cleanEdges 500 t v mid more ++ tail).foldl hearEdge (.wait [])) =
        closeSpans cellFuel b (tail.foldl hearEdge (.decode tr st)) := by
  have hdated : (t + (500 : Nat) : Int) - 500 = t := by omega
  by_cases hne : mid = []
  · subst hne
    cases hmid
    have hm' : m = t + 7 * 500 := by simpa using hm
    refine ⟨{ locked 500 t with span := boundaryEdges 500 m (!v) more }, ready_lock ?_ ?_ ?_, hdated, ?_⟩
    · simp [locked, hm']
    · simp [locked, hm']
    · intro e he
      rw [near_iff, boundaryEdges_time e he]
      omega
    · intro b tail _ _
      have hclean : cleanEdges 500 t v [] more = lockEdges 500 t v ++ boundaryEdges 500 m (!v) more := by
        simp [cleanEdges, spanEdges, hm']
      rw [hclean, List.append_assoc, List.foldl_append, hear_lock goodHalf_500 (by omega), List.foldl_append,
        foldl_hearEdge_inside (by simp [StageOk]) (fun e he => by
          have := boundaryEdges_time e he
          simp only [spanEnd, locked]
          omega)]
      simp [locked]
  · refine ⟨_, ready_next t m, rfl, fun b tail hb htail => ?_⟩
    rw [hear_clean (m := m) goodHalf_500 (by omega) hne (by omega) hmid (by omega)
      (fun e he => by have := htail e he; omega), hdated]

end Sys2Proof.Machine
end

section
/-! The candidate run in WAIT: a part without a lock run is SILENT, and one whose lock run comes too late is LATE (R136, R137). -/

namespace Sys2Proof.Machine

-- One proof after another, not in parallel: the whole text compiles under a bound on memory.
set_option Elab.async false

/-! ### The candidate run (R136, R137) -/

/-- A level change follows another one within the lock zone (R136). -/
def Follows (later earlier : Edge) : Prop := near later.time (earlier.time + 1000) 250 = true

theorem follows_iff {later earlier : Edge} :
    Follows later earlier ↔ earlier.time + 750 ≤ later.time ∧ later.time ≤ earlier.time + 1250 := by
  rw [Follows, near_iff]
  omega

theorem isLockRun_iff {a b c d : Edge} : IsLockRun a b c d ↔ Follows b a ∧ Follows c b ∧ Follows d c := by
  simp only [IsLockRun, follows_iff]

theorem NoLockRun.of_append {edges more : List Edge} (h : NoLockRun (edges ++ more)) : NoLockRun edges := by
  rintro before a b c d after rfl
  exact h before a b c d (after ++ more) (by simp)

/-- The candidate run in WAIT, latest first: the last level changes heard, three at most, each following the one before it. -/
structure Candidate (edges run : List Edge) : Prop where
  suffix : run.reverse <:+ edges
  chain : run.IsChain Follows
  short : run.length ≤ 3
  nil_iff : run = [] ↔ edges = []

/-- One level change more: without a lock run it extends the candidate run or starts a new one (R136). -/
theorem Candidate.hear {edges run : List Edge} {e : Edge} (h : Candidate edges run) (hn : NoLockRun (edges ++ [e])) :
    ∃ run', hearEdge (.wait run) e = .wait (e :: run') ∧ Candidate (edges ++ [e]) (e :: run') := by
  have hnew : Candidate (edges ++ [e]) [e] := ⟨by simp, by simp, by simp, by simp⟩
  obtain ⟨⟨before, hbefore⟩, hchain, hshort, -⟩ := h
  rw [hearEdge_wait]
  match run, hbefore, hchain, hshort with
  | [], _, _, _ => exact ⟨[], rfl, hnew⟩
  | p :: ps, hbefore, hchain, hshort =>
    by_cases hp : near e.time (p.time + 1000) 250 = true
    · have hlong : (e :: p :: ps).length ≠ 4 := fun hlen => by
        obtain ⟨x, y, rfl⟩ := List.length_eq_two.mp (show ps.length = 2 by simpa using hlen)
        obtain ⟨hxp, hyx⟩ : Follows p x ∧ Follows x y := by simpa using hchain
        refine hn before y x p e [] ?_ (isLockRun_iff.mpr ⟨hyx, hxp, hp⟩)
        simp [← hbefore]
      simp only [List.length_cons] at hlong hshort
      refine ⟨p :: ps, by simp [hp]; omega, ⟨before, by simp [← hbefore]⟩, hchain.cons_cons hp, by simp; omega, by simp⟩
    · exact ⟨[], by simp [hp], hnew⟩

/-- Without a lock run the part stays in WAIT (R136). -/
theorem foldl_hearEdge_noLockRun {edges : List Edge} (h : NoLockRun edges) :
    ∃ run, edges.foldl hearEdge (.wait []) = .wait run ∧ Candidate edges run := by
  induction edges using List.reverseRecOn with
  | nil => exact ⟨[], rfl, by simp, by simp, by simp, by simp⟩
  | append_singleton edges e ih =>
    obtain ⟨run, hrun, hc⟩ := ih h.of_append
    obtain ⟨run', hrun', hc'⟩ := hc.hear h
    exact ⟨e :: run', by rw [List.foldl_append, hrun]; exact hrun', hc'⟩

/-- Four level changes that are the first lock run: the run starts with the first of them, and the part locks (R136). -/
theorem foldl_hearEdge_lockRun {before : List Edge} {a b c d : Edge} (hn : NoLockRun (before ++ [a, b, c]))
    (hl : IsLockRun a b c d) : (before ++ [a, b, c, d]).foldl hearEdge (.wait []) = lockOn [d, c, b, a] := by
  obtain ⟨hba, hcb, hdc⟩ := isLockRun_iff.mp hl
  have hna : NoLockRun (before ++ [a]) := NoLockRun.of_append (more := [b, c]) (by simpa using hn)
  obtain ⟨run, hrun, hc⟩ := foldl_hearEdge_noLockRun hna.of_append
  obtain ⟨run', hrun', ⟨⟨first, hfirst⟩, hchain, -, -⟩⟩ := hc.hear hna
  have hempty : run' = [] := by
    cases run' with
    | nil => rfl
    | cons x xs =>
      obtain ⟨hax, -⟩ : Follows a x ∧ _ := by simpa using hchain
      refine absurd (isLockRun_iff.mpr ⟨hax, hba, hcb⟩) (hn (first ++ xs.reverse) x a b c [] ?_)
      rw [show before ++ [a, b, c] = (before ++ [a]) ++ [b, c] by simp, ← hfirst]
      simp
  subst hempty
  unfold Follows at hba hcb hdc
  rw [List.foldl_append, hrun, List.foldl_cons, hrun']
  simp [hearEdge_wait, hba, hcb, hdc]

/-- Without a lock run the part is SILENT at its closing, with noise where there was a level change (R136). -/
theorem receivePart_silent {edges : List Edge} (ht : ∀ e ∈ edges, e.time < closing) (h : NoLockRun edges) :
    Ends edges .silent true ∧ ((receivePart edges).noise = true ↔ edges ≠ []) := by
  obtain ⟨run, hrun, hc⟩ := foldl_hearEdge_noLockRun h
  have hpart : receivePart edges = closePart (.wait run) := by rw [receivePart_of_lt ht, hrun, closeSpans_wait]
  unfold Ends
  rw [hpart]
  refine ⟨⟨rfl, rfl⟩, ?_⟩
  rw [ne_eq, ← hc.nil_iff]
  cases run <;> simp [closePart]

/-- A lock run that dates the preamble at bit time 16 or later makes the part LATE, settled at its closing, whatever is heard
after it; its transitions are four decoded cells (R136, R137; log 20). -/
theorem receivePart_late {before after : List Edge} {a b c d : Edge}
    (ht : ∀ e ∈ before ++ a :: b :: c :: d :: after, e.time < closing) (hn : NoLockRun (before ++ [a, b, c]))
    (hl : IsLockRun a b c d) (ha : 16500 ≤ a.time) :
    receivePart (before ++ a :: b :: c :: d :: after) =
      { cls := .late, noise := true, atClose := true, dated := some ((a.time : Int) - 500), centre := some (d.time + 1000),
        cells := [a.rising, b.rising, c.rising, d.rising] } := by
  have hlock : lockOn [d, c, b, a] =
      .late ((a.time : Int) - 500) (d.time + 1000) [a.rising, b.rising, c.rising, d.rising] := by
    have : (16000 : Int) ≤ (a.time : Int) - 500 := by omega
    simp [lockOn, this]
  rw [receivePart_of_lt ht, show before ++ a :: b :: c :: d :: after = (before ++ [a, b, c, d]) ++ after by simp,
    List.foldl_append, foldl_hearEdge_lockRun hn hl, hlock, foldl_hearEdge_late, closeSpans_late]
  rfl

/-- A preamble that begins after the window: LATE where its fourth middle still falls into the part (R137). -/
theorem receivePart_lateCells {t : Nat} {rest : List Bool} (h : 16000 ≤ t) (ht : t + 3500 < closing) :
    receivePart (cellEdges 500 t (true :: false :: true :: false :: rest)) =
      { cls := .late, noise := true, atClose := true, dated := some (t : Int), centre := some (t + 4500),
        cells := [true, false, true, false] } := by
  obtain ⟨after, hedges⟩ : ∃ after, (cellEdges 500 t (true :: false :: true :: false :: rest)).filter
      (fun e => decide (e.time < closing)) = [⟨t, false⟩] ++ ⟨t + 500, true⟩ :: ⟨t + 1500, false⟩ :: ⟨t + 2500, true⟩ ::
        ⟨t + 3500, false⟩ :: after := by
    refine ⟨(boundaryEdges 500 (t + 3500) false rest ++ laterEdges 500 (t + 3500) rest).filter
      (fun e => decide (e.time < closing)), ?_⟩
    have hclean := cellEdges_clean (half := 500) (t := t) (v := true) (mid := []) (more := rest)
    rw [Bool.not_true, List.nil_append] at hclean
    have hlock : (lockEdges 500 t true).filter (fun e => decide (e.time < closing)) = lockEdges 500 t true :=
      List.filter_eq_self.mpr fun e he => by have := lockEdges_time e he; simp; omega
    rw [hclean, cleanEdges, List.append_assoc, List.filter_append, hlock]
    simp [lockEdges, spanEdges]
  rw [← receivePart_filter, hedges, receivePart_late]
  · simp
  · rw [← hedges]
    exact fun e he => of_decide_eq_true (List.mem_filter.mp he).2
  · intro before a b c d after' he hl
    obtain ⟨rfl, rfl⟩ : before = [] ∧ after' = [] := by
      have := congrArg List.length he
      simp at this
      exact ⟨List.length_eq_zero_iff.mp (by omega), List.length_eq_zero_iff.mp (by omega)⟩
    simp only [List.nil_append, List.cons_append, List.cons.injEq] at he
    obtain ⟨rfl, rfl, -⟩ := he
    have := (follows_iff.mp (isLockRun_iff.mp hl).1).1
    simp at this
  · exact ⟨⟨by simp, by simp⟩, ⟨by simp, by simp⟩, by simp, by simp⟩
  · simpa using h

end Sys2Proof.Machine
end

section
/-! What LIF holds in the course of a segment, and a segment that does not end or breaks off (R129, R138, R141). -/

namespace Sys2Proof.Machine

-- One proof after another, not in parallel: the whole text compiles under a bound on memory.
set_option Elab.async false

/-! ### In the course of a segment (R129, R136, R141) -/

/-- A cell of a run that spells a class: the cells between lock and it, and those from it on. -/
theorem Spells.at {cells : List Bool} {cls : RxClass} {k : Nat} (h : Spells cells cls) (h4 : 4 ≤ k)
    (hk : k < cells.length) :
    ∃ mid more st, cells = true :: false :: true :: false :: (mid ++ more) ∧ k = mid.length + 4 ∧ more ≠ [] ∧
      takeCells lockStage mid = .inr st ∧ SettledBy st more (cls, cells) := by
  obtain ⟨rest, hcells, hset⟩ := h
  have hlen : cells.length = rest.length + 4 := by simp [hcells]
  have hne : rest.drop (k - 4) ≠ [] := List.ne_nil_of_length_pos (by rw [List.length_drop]; omega)
  rw [← List.take_append_drop (k - 4) rest] at hset hcells
  obtain ⟨st, hst, hset'⟩ := hset.split hne
  exact ⟨_, _, st, hcells, by rw [List.length_take]; omega, hne, hst, hset'⟩

theorem SettledBy.spanEnd_eq {st : RxStage} {cells : List Bool} {r : RxClass × List Bool} (h : SettledBy st cells r)
    (centre : Nat) : spanEnd st centre = if cells.length = 1 then centre + 500 else centre + 625 := by
  match cells, h with
  | [], h => exact absurd rfl h.ne_nil
  | [c], h => exact h.single.2 centre
  | c :: d :: cells, h =>
    obtain ⟨-, -, -, hspan⟩ := h.next (List.cons_ne_nil d cells)
    simpa using hspan centre

/-- The stage of a decoded lock run. -/
theorem lockStage_ok : StageOk lockStage := by simp [StageOk, lockStage]

/-- Clean cells have been heard and the next one's span has not ended: the part decodes (R129, R138). -/
theorem closeSpans_decoding {t m upTo : Nat} {mid more : List Bool} {st : RxStage} (ht : t < 16000)
    (hm : m = t + 3500 + 1000 * mid.length) (hmid : takeCells lockStage mid = .inr st)
    (hpast : m + 625 ≤ min upTo closing) (hopen : min upTo closing < spanEnd st (m + 1000)) :
    ∃ tr, tr.dated = (t : Int) ∧ tr.centre = m + 1000 ∧ closeSpans cellFuel (min upTo closing + 1)
      (((cellEdges 500 t (true :: false :: true :: false :: (mid ++ more))).filter
        fun e => decide (e.time ≤ upTo) && decide (e.time < closing)).foldl hearEdge (.wait [])) = .decode tr st := by
  obtain ⟨tr, hready, hdated, hheard⟩ := hear_ready (v := true) (more := more) ht hm hmid
  obtain ⟨hcentre, -⟩ := hready
  have hst := takeCells_stage lockStage_ok hmid
  obtain ⟨tail, htail⟩ : ∃ tail, (laterEdges 500 m more).filter
      (fun e => decide (e.time ≤ upTo) && decide (e.time < closing)) = tail := ⟨_, rfl⟩
  have hlater : ∀ e ∈ tail, m + 625 < e.time ∧ e.time ≤ spanEnd st (m + 1000) := by
    intro e he
    rw [← htail] at he
    obtain ⟨hmem, htime⟩ := List.mem_filter.mp he
    simp only [Bool.and_eq_true, decide_eq_true_eq] at htime
    have := laterEdges_time e hmem
    omega
  have hclean : (cleanEdges 500 t true mid more).filter (fun e => decide (e.time ≤ upTo) && decide (e.time < closing)) =
      cleanEdges 500 t true mid more := by
    refine List.filter_eq_self.mpr fun e he => ?_
    have := cleanEdges_time e he
    simp only [Bool.and_eq_true, decide_eq_true_eq]
    omega
  have hedges := cellEdges_clean (half := 500) (t := t) (v := true) (mid := mid) (more := more)
  rw [Bool.not_true, show t + 7 * 500 + 2 * 500 * mid.length = m by omega] at hedges
  refine ⟨{ tr with span := tr.span ++ tail }, hdated, hcentre, ?_⟩
  rw [hedges, List.filter_append, hclean, htail, hheard _ _ (by omega) fun e he => (hlater e he).1,
    foldl_hearEdge_inside hst (by rw [hcentre]; exact fun e he => (hlater e he).2), closeSpans_decode hst,
    if_neg (by simp only [hcentre]; omega)]

/-- While a cell is received, RECEIVE holds the cells before it, the tracked centre and the dated beginning (R129, R136). -/
theorem Spells.hear_decode {cells : List Bool} {cls : RxClass} {t k upTo : Nat} (h : Spells cells cls) (ht : t < 16000)
    (hend : t + 1000 * cells.length < closing) (h4 : 4 ≤ k) (hk : k < cells.length) (hpast : t + 1000 * k + 125 ≤ upTo)
    (hopen : upTo < t + 1000 * k + 1000) :
    ∃ track stage, hear (cellEdges 500 t cells) upTo (.wait []) = .decode track stage ∧ track.dated = t ∧
      track.centre = t + 1000 * k + 500 ∧ decodedCells stage = cells.take k := by
  obtain ⟨mid, more, st, hcells, hmk, -, hmid, -⟩ := h.at h4 hk
  obtain ⟨m, hm⟩ : ∃ m, m = t + 3500 + 1000 * mid.length := ⟨_, rfl⟩
  have hmt : m + 500 = t + 1000 * k := by omega
  have hs := spanEnd_bounds st (m + 1000)
  obtain ⟨tr, hdated, hcentre, hheard⟩ := closeSpans_decoding (upTo := upTo) (more := more) ht hm hmid (by omega)
    (by omega)
  refine ⟨tr, st, ?_, hdated, by omega, ?_⟩
  · unfold hear
    rw [hcells]
    simp only [hheard]
    rw [if_neg (by omega)]
  · rw [takeCells_decoded hmid, hcells, hmk]
    simp [lockStage, decodedCells]

/-- A segment whose last span has not ended at bit time 152 is an overrun (R141). -/
theorem Spells.ends_overrun {cells : List Bool} {cls : RxClass} {t : Nat} (h : Spells cells cls) (ht : t < 16000)
    (hlen : 5 ≤ cells.length) (hend : closing < t + 1000 * cells.length) :
    Ends (cellEdges 500 t cells) .collided true := by
  have hclosing : closing = 152000 := rfl
  -- The first cell whose span ends after bit time 152.
  obtain ⟨k, h4, hk, hpast, hlast⟩ : ∃ k, 4 ≤ k ∧ k < cells.length ∧ t + 1000 * k + 125 ≤ closing ∧
      (k + 1 < cells.length → closing < t + 1000 * k + 1125) :=
    ⟨min (cells.length - 1) ((closing - 125 - t) / 1000), by omega, by omega, by omega, by omega⟩
  obtain ⟨mid, more, st, hcells, hmk, -, hmid, hset⟩ := h.at h4 hk
  obtain ⟨m, hm⟩ : ∃ m, m = t + 3500 + 1000 * mid.length := ⟨_, rfl⟩
  have hmt : m + 500 = t + 1000 * k := by omega
  have hmore : cells.length = mid.length + more.length + 4 := by simp [hcells]
  have hspan := hset.spanEnd_eq (m + 1000)
  obtain ⟨tr, -, -, hheard⟩ := closeSpans_decoding (upTo := closing) (more := more) ht hm hmid (by omega)
    (by split at hspan <;> omega)
  have hpart : receivePart (cellEdges 500 t cells) = closePart (.decode tr st) := by
    rw [hcells, receivePart, hear]
    simp only [hheard]
    rfl
  unfold Ends
  rw [hpart]
  exact ⟨rfl, rfl⟩

/-- A segment that breaks off: the next cell has no middle, and it is COLLIDED without cells (R138). -/
theorem Spells.broken_off {cells : List Bool} {cls : RxClass} {t n : Nat} (h : Spells cells cls) (ht : t < 16000)
    (hend : t + 1000 * cells.length < closing) (h4 : 4 ≤ n) (hn : n < cells.length) :
    Ends (cellEdges 500 t (cells.take n)) .collided false ∧ Keeps (cellEdges 500 t (cells.take n)) t [] := by
  obtain ⟨mid, more, st, hcells, rfl, -, hmid, hset⟩ := h.at h4 hn
  obtain ⟨m, hm⟩ : ∃ m, m = t + 3500 + 1000 * mid.length := ⟨_, rfl⟩
  have hmore : cells.length = mid.length + more.length + 4 := by simp [hcells]
  have hspan : spanEnd st (m + 1000) < closing + 1 := by
    have := hset.spanEnd_eq (m + 1000)
    split at this <;> omega
  obtain ⟨tr, hready, hdated, hheard⟩ := hear_ready (v := true) (more := []) ht hm hmid
  have hedges : cellEdges 500 t (cells.take (mid.length + 4)) = cleanEdges 500 t true mid [] ++ [] := by
    have := cellEdges_clean (half := 500) (t := t) (v := true) (mid := mid) (more := [])
    simpa [hcells, laterEdges] using this
  have hpart : receivePart (cellEdges 500 t (cells.take (mid.length + 4))) = settledWith .collided false [] tr := by
    rw [hedges, receivePart_of_lt (fun e he => by
        have := cleanEdges_time e (by simpa using he)
        omega),
      hheard _ _ (by omega) (by simp)]
    have := hear_collided (inside := []) (after := []) (takeCells_stage lockStage_ok hmid) hready rfl hspan
      (by simp) (by simp)
    rw [List.append_nil] at this
    rw [this]
    rfl
  unfold Ends Keeps
  rw [hpart, settledWith, hdated]
  exact ⟨⟨rfl, rfl⟩, rfl, rfl⟩

end Sys2Proof.Machine
end

section
/-! One level change more than a segment has (R138). -/

namespace Sys2Proof.Machine

-- One proof after another, not in parallel: the whole text compiles under a bound on memory.
set_option Elab.async false

/-! ### One level change more (R138) -/

/-- A level change more among level changes in the order of their times. -/
def withChange (x : Edge) (edges : List Edge) : List Edge :=
  edges.filter (fun e => e.time < x.time) ++ x :: edges.filter fun e => x.time ≤ e.time

theorem withChange_perm (x : Edge) (edges : List Edge) : (withChange x edges).Perm (x :: edges) := by
  have hnot : (fun e : Edge => decide (x.time ≤ e.time)) = fun e => !decide (e.time < x.time) := by
    funext e
    rw [← decide_not, decide_eq_decide, Nat.not_lt]
  rw [withChange, hnot]
  exact List.perm_middle.trans (List.filter_append_perm _ edges |>.cons x)

theorem mem_withChange {x e : Edge} {edges : List Edge} : e ∈ withChange x edges ↔ e = x ∨ e ∈ edges := by
  rw [(withChange_perm x edges).mem_iff, List.mem_cons]

/-- The level change joins the span it falls into. -/
theorem withChange_append {x : Edge} {before span after : List Edge} (hb : ∀ e ∈ before, e.time < x.time)
    (ha : ∀ e ∈ after, x.time < e.time) :
    withChange x (before ++ span ++ after) = before ++ (withChange x span ++ after) := by
  have hbefore : before.filter (fun e => decide (x.time ≤ e.time)) = [] :=
    List.filter_eq_nil_iff.mpr fun e he => by have := hb e he; simpa using this
  have hbefore' : before.filter (fun e => decide (e.time < x.time)) = before :=
    List.filter_eq_self.mpr fun e he => decide_eq_true (hb e he)
  have hafter : after.filter (fun e => decide (e.time < x.time)) = [] :=
    List.filter_eq_nil_iff.mpr fun e he => by have := ha e he; simp; omega
  have hafter' : after.filter (fun e => decide (x.time ≤ e.time)) = after :=
    List.filter_eq_self.mpr fun e he => decide_eq_true (ha e he).le
  simp [withChange, List.filter_append, hbefore, hbefore', hafter, hafter']

/-- A cell is COLLIDED unless its span holds one level change in the mid zone, at most one in the boundary zone, and no other
(R138). -/
theorem judgeCell_collided {centre : Nat} {span : List Edge}
    (h : span.countP (fun e => near e.time centre 250) = 1 → span.countP (fun e => near e.time (centre + 500) 125) ≤ 1 →
      span.length ≠ 1 + span.countP fun e => near e.time (centre + 500) 125) : judgeCell centre none span = none := by
  simp only [List.countP_eq_length_filter] at h
  simp only [judgeCell]
  split
  · rename_i hc
    obtain ⟨hall, hone⟩ := hc
    split
    · rename_i e hmid
      rw [hmid, List.length_singleton] at h hall
      exact absurd hall.symm (h rfl hone)
    · rfl
  · rfl

theorem countP_mid_cellSpan (m : Nat) (c : Bool) (more : List Bool) :
    (cellSpan m c more).countP (fun e => near e.time (m + 1000) 250) = 1 := by
  have hboundary : (boundaryEdges 500 (m + 1000) c more).countP (fun e => near e.time (m + 1000) 250) = 0 :=
    List.countP_eq_zero.mpr fun e he => by simp [near, boundaryEdges_time e he]
  rw [cellSpan, List.countP_cons, hboundary]
  simp [near]

theorem countP_boundary_cellSpan (m : Nat) (c : Bool) (more : List Bool) :
    (cellSpan m c more).countP (fun e => near e.time (m + 1000 + 500) 125) =
      (boundaryEdges 500 (m + 1000) c more).length := by
  have hboundary : (boundaryEdges 500 (m + 1000) c more).countP (fun e => near e.time (m + 1000 + 500) 125) =
      (boundaryEdges 500 (m + 1000) c more).length :=
    List.countP_eq_length.mpr fun e he => by simp [near, boundaryEdges_time e he]
  rw [cellSpan, List.countP_cons, hboundary]
  simp [near]

/-- A level change more that lies in a cell makes the cell COLLIDED: a second one in its mid zone, or one outside both zones. -/
theorem judgeCell_withChange_inside {m : Nat} {c : Bool} {more : List Bool} {x : Edge} (h : m + 625 < x.time)
    (h' : x.time < m + 1375) : judgeCell (m + 1000) none (withChange x (cellSpan m c more)) = none := by
  have hboundary : near x.time (m + 1000 + 500) 125 = false := near_eq_false_iff.mpr (by omega)
  refine judgeCell_collided ?_
  rw [(withChange_perm x _).countP_eq, (withChange_perm x _).countP_eq, (withChange_perm x _).length_eq,
    List.countP_cons, List.countP_cons, countP_mid_cellSpan, countP_boundary_cellSpan, hboundary]
  simp [cellSpan]
  omega

/-- A level change more in the boundary zone of two cells of one value makes the cell COLLIDED. -/
theorem judgeCell_withChange_boundary {m : Nat} {c : Bool} {more : List Bool} {x : Edge} (h : m + 1375 < x.time)
    (h' : x.time < m + 1625) (hsame : boundaryEdges 500 (m + 1000) c more ≠ []) :
    judgeCell (m + 1000) none (withChange x (cellSpan m c more)) = none := by
  have hboundary : near x.time (m + 1000 + 500) 125 = true := near_iff.mpr (by omega)
  have hpos := List.length_pos_iff.mpr hsame
  have hcount := (withChange_perm x (cellSpan m c more)).countP_eq fun e => near e.time (m + 1000 + 500) 125
  rw [List.countP_cons, countP_boundary_cellSpan, if_pos hboundary] at hcount
  exact judgeCell_collided fun _ hone => absurd hone (by omega)

/-- Between two cells of different value it is the boundary transition of the cell (R138). -/
theorem judgeCell_withChange_accepted {m : Nat} {c : Bool} {more : List Bool} {x : Edge} (h : m + 1375 < x.time)
    (h' : x.time < m + 1625) (hdiff : boundaryEdges 500 (m + 1000) c more = []) :
    judgeCell (m + 1000) none (withChange x (cellSpan m c more)) = some (c, m + 1000) := by
  have hmid : near x.time (m + 1000) 250 = false := near_eq_false_iff.mpr (by omega)
  have hboundary : near x.time (m + 1000 + 500) 125 = true := near_iff.mpr (by omega)
  have hspan : withChange x (cellSpan m c more) = [{ time := m + 1000, rising := c }, x] := by
    have hlt : m + 1000 < x.time := by omega
    simp [withChange, cellSpan, hdiff, hlt]
  have hmiddle : near (m + 1000) (m + 1000) 250 = true := near_iff.mpr (by omega)
  have hmiddle' : near (m + 1000) (m + 1000 + 500) 125 = false := near_eq_false_iff.mpr (by omega)
  rw [hspan]
  simp [judgeCell, hmid, hboundary, hmiddle, hmiddle']

/-- A run of cells has no level change after the boundary of its last one. -/
theorem cellEdges_time_le {t : Nat} {mid : List Bool} :
    ∀ e ∈ cellEdges 500 t (true :: false :: true :: false :: mid), e.time ≤ t + 4000 + 1000 * mid.length := by
  intro e he
  have hedges := cellEdges_clean (half := 500) (t := t) (v := true) (mid := mid) (more := [])
  simp only [Bool.not_true, List.append_nil, laterEdges] at hedges
  rw [hedges] at he
  have := cleanEdges_time e he
  omega

/-- With a level change more, too, the whole part is heard before its closing. -/
theorem Spells.receivePart_withChange {cells : List Bool} {cls : RxClass} {t : Nat} {x : Edge} (h : Spells cells cls)
    (hend : t + 1000 * cells.length < closing) (hx : x.time < closing) :
    receivePart (withChange x (cellEdges 500 t cells)) = closePart (closeSpans cellFuel (closing + 1)
      ((withChange x (cellEdges 500 t cells)).foldl hearEdge (.wait []))) := by
  obtain ⟨rest, rfl, -⟩ := h
  refine receivePart_of_lt fun e he => ?_
  obtain rfl | he := mem_withChange.mp he
  · exact hx
  · have := cellEdges_time_le e he
    simp only [List.length_cons] at hend
    omega

/-- A level change more in the span of a cell: the part is heard up to the cell before, and the span holds it. -/
theorem Spells.hear_withChange {cells : List Bool} {cls : RxClass} {t k : Nat} {x : Edge} (h : Spells cells cls)
    (ht : t < 16000) (hend : t + 1000 * cells.length < closing) (h4 : 4 ≤ k) (hk : k < cells.length)
    (hx : t + 1000 * k + 125 < x.time) (hx' : x.time < t + 1000 * k + 1125) :
    ∃ m c more st tr, m + 500 = t + 1000 * k ∧ cells[k]? = some c ∧ cells[k + 1]? = more.head? ∧
      cells.length = k + 1 + more.length ∧ StageOk st ∧ Ready tr m ∧ SettledBy st (c :: more) (cls, cells) ∧
      closeSpans cellFuel (closing + 1) ((withChange x (cellEdges 500 t cells)).foldl hearEdge (.wait [])) =
        closeSpans cellFuel (closing + 1)
          ((withChange x (cellSpan m c more) ++ laterEdges 500 (m + 1000) more).foldl hearEdge (.decode tr st)) := by
  obtain ⟨mid, rest, st, hcells, hmk, hne, hmid, hset⟩ := h.at h4 hk
  obtain ⟨c, more, rfl⟩ := List.exists_cons_of_ne_nil hne
  obtain ⟨m, hm⟩ : ∃ m, m = t + 3500 + 1000 * mid.length := ⟨_, rfl⟩
  have hmt : m + 500 = t + 1000 * k := by omega
  have hlen : cells.length = k + 1 + more.length := by simp [hcells]; omega
  obtain ⟨tr, hready, -, hheard⟩ := hear_ready (v := true) (more := c :: more) ht hm hmid
  have hedges : cellEdges 500 t cells =
      cleanEdges 500 t true mid (c :: more) ++ cellSpan m c more ++ laterEdges 500 (m + 1000) more := by
    have := cellEdges_clean (half := 500) (t := t) (v := true) (mid := mid) (more := c :: more)
    rw [Bool.not_true, ← hcells, show t + 7 * 500 + 2 * 500 * mid.length = m by omega, laterEdges_cons] at this
    rw [this, List.append_assoc]
  have hbefore : ∀ e ∈ cleanEdges 500 t true mid (c :: more), e.time < x.time := fun e he => by
    have := cleanEdges_time e he
    omega
  have hafter : ∀ e ∈ laterEdges 500 (m + 1000) more, x.time < e.time := fun e he => by
    have := laterEdges_time e he
    omega
  refine ⟨m, c, more, st, tr, hmt, ?_, ?_, hlen, takeCells_stage lockStage_ok hmid, hready, hset, ?_⟩
  · simp [hcells, hmk]
  · rw [hcells, hmk]
    simp [List.getElem?_append_right, List.head?_eq_getElem?]
  · rw [hedges, withChange_append hbefore hafter, hheard _ _ (by omega)]
    intro e he
    obtain he | he := List.mem_append.mp he
    · obtain rfl | he := mem_withChange.mp he
      · omega
      · have := cellSpan_time e he
        omega
    · have := laterEdges_time e he
      omega

/-- A span judged COLLIDED makes the whole part COLLIDED, before its closing. -/
theorem ends_collided {edges : List Edge} {tr : Tracking}
    (h : receivePart edges = closePart (.settled (settledWith .collided false [] tr))) : Ends edges .collided false := by
  unfold Ends
  rw [h]
  exact ⟨rfl, rfl⟩

/-- A level change more in a cell makes the segment COLLIDED (R138). -/
theorem Spells.withChange_inside {cells : List Bool} {cls : RxClass} {t k : Nat} {x : Edge} (h : Spells cells cls)
    (ht : t < 16000) (hend : t + 1000 * cells.length < closing) (h4 : 4 ≤ k) (hk : k < cells.length)
    (hx : t + 1000 * k + 125 < x.time) (hx' : x.time < t + 1000 * k + 875) :
    Ends (withChange x (cellEdges 500 t cells)) .collided false := by
  have hpart := h.receivePart_withChange (x := x) hend (by omega)
  obtain ⟨m, c, more, st, tr, hmt, -, -, hlen, hst, hready, hset, hheard⟩ :=
    h.hear_withChange ht hend h4 hk hx (by omega)
  have hspan := hset.spanEnd_eq (m + 1000)
  have hbounds := spanEnd_bounds st (m + 1000)
  rw [List.length_cons] at hspan
  rw [hheard, hear_collided hst hready (judgeCell_withChange_inside (by omega) (by omega))
    (by split at hspan <;> omega) ?inside ?after] at hpart
  case inside =>
    intro e he
    obtain rfl | he := mem_withChange.mp he
    · omega
    · have := cellSpan_time e he
      omega
  case after =>
    intro e he
    have := laterEdges_time e he
    omega
  exact ends_collided hpart

/-- Two cells of one value have a level change between them, two of different value none (R130). -/
theorem boundaryEdges_eq_nil_iff {m : Nat} {c : Bool} {more : List Bool} (h : more ≠ []) :
    boundaryEdges 500 m c more = [] ↔ more.head? ≠ some c := by
  obtain ⟨d, more, rfl⟩ := List.exists_cons_of_ne_nil h
  cases c <;> cases d <;> simp [boundaryEdges]

/-- A level change more between two cells is a second boundary transition where they have one value, and the cell's own where
they differ (R138). -/
theorem Spells.withChange_boundary {cells : List Bool} {cls : RxClass} {t k : Nat} {x : Edge} (h : Spells cells cls)
    (ht : t < 16000) (hend : t + 1000 * cells.length < closing) (h4 : 4 ≤ k) (hk : k + 1 < cells.length)
    (hx : t + 1000 * k + 875 < x.time) (hx' : x.time < t + 1000 * k + 1125) :
    Ends (withChange x (cellEdges 500 t cells)) (if cells[k]? = cells[k + 1]? then .collided else cls) false := by
  have hpart := h.receivePart_withChange (x := x) hend (by omega)
  obtain ⟨m, c, more, st, tr, hmt, hc, hd, hlen, hst, hready, hset, hheard⟩ :=
    h.hear_withChange ht hend h4 (by omega) (by omega) hx'
  have hne : more ≠ [] := List.ne_nil_of_length_pos (by omega)
  obtain ⟨st', htake, hset', hspan⟩ := hset.next hne
  have hinside : ∀ e ∈ withChange x (cellSpan m c more), m + 625 < e.time ∧ e.time ≤ m + 1625 := fun e he => by
    obtain rfl | he := mem_withChange.mp he
    · omega
    · have := cellSpan_time e he
      omega
  have hafter : ∀ e ∈ laterEdges 500 (m + 1000) more, m + 1625 < e.time := fun e he => by
    have := laterEdges_time e he
    omega
  rw [hheard] at hpart
  rw [hc, hd]
  by_cases hb : boundaryEdges 500 (m + 1000) c more = []
  · rw [if_neg fun he => (boundaryEdges_eq_nil_iff hne).mp hb he.symm]
    rw [hear_decoded hst hready (judgeCell_withChange_accepted (by omega) (by omega) hb) htake (by omega) hinside hafter,
      hear_later (takeCell_stage hst htake).1 (ready_next tr.dated (m + 1000)) hset' (by omega)] at hpart
    unfold Ends
    rw [hpart]
    exact ⟨rfl, rfl⟩
  · have hsame : some c = more.head? := by
      by_contra hdiff
      exact hb ((boundaryEdges_eq_nil_iff hne).mpr (Ne.symm hdiff))
    rw [if_pos hsame]
    rw [hear_collided hst hready (judgeCell_withChange_boundary (by omega) (by omega) hb) (by rw [hspan]; omega)
      (by rw [hspan]; exact hinside) (by rw [hspan]; exact hafter)] at hpart
    exact ends_collided hpart

/-- A level change more in the boundary zone after the lock run's fourth cell is not counted (R138). -/
theorem Spells.withChange_lock {cells : List Bool} {cls : RxClass} {t : Nat} {x : Edge} (h : Spells cells cls)
    (ht : t < 16000) (hend : t + 1000 * cells.length < closing) (hx : t + 3875 < x.time) (hx' : x.time < t + 4125) :
    Ends (withChange x (cellEdges 500 t cells)) cls false := by
  have hpart := h.receivePart_withChange (x := x) hend (by have : closing = 152000 := rfl; omega)
  obtain ⟨rest, hcells, hset⟩ := h
  have hlen : cells.length = rest.length + 4 := by simp [hcells]
  have hedges : cellEdges 500 t cells = lockEdges 500 t true ++ boundaryEdges 500 (t + 3500) false rest ++
      laterEdges 500 (t + 3500) rest := by
    have := cellEdges_clean (half := 500) (t := t) (v := true) (mid := []) (more := rest)
    simpa [hcells, cleanEdges, spanEdges] using this
  have hbefore : ∀ e ∈ lockEdges 500 t true, e.time < x.time := fun e he => by
    have := lockEdges_time e he
    omega
  have hafter : ∀ e ∈ laterEdges 500 (t + 3500) rest, x.time < e.time := fun e he => by
    have := laterEdges_time e he
    omega
  have hspan : ∀ e ∈ withChange x (boundaryEdges 500 (t + 3500) false rest), near e.time (t + 3500 + 500) 125 = true := by
    intro e he
    rw [near_iff]
    obtain rfl | he := mem_withChange.mp he
    · omega
    · rw [boundaryEdges_time e he]
      omega
  obtain ⟨tr, htr⟩ : ∃ tr : Tracking,
      tr = { locked 500 t with span := withChange x (boundaryEdges 500 (t + 3500) false rest) } := ⟨_, rfl⟩
  have hready : Ready tr (t + 3500) := ready_lock (by rw [htr]; rfl) (by rw [htr]; rfl) (by rw [htr]; exact hspan)
  have hinside : (withChange x (boundaryEdges 500 (t + 3500) false rest)).foldl hearEdge
      (.decode (locked 500 t) lockStage) = .decode tr lockStage := by
    rw [htr, foldl_hearEdge_inside lockStage_ok]
    · rfl
    · intro e he
      have := near_iff.mp (hspan e he)
      simp only [spanEnd, lockStage, locked]
      omega
  have hfold : (withChange x (cellEdges 500 t cells)).foldl hearEdge (.wait []) =
      (laterEdges 500 (t + 3500) rest).foldl hearEdge (.decode tr lockStage) := by
    rw [hedges, withChange_append hbefore hafter, List.foldl_append, hear_lock (v := true) goodHalf_500 (by omega),
      List.foldl_append, ← hinside]
    rfl
  rw [hfold, hear_later lockStage_ok hready hset (by omega)] at hpart
  unfold Ends
  rw [hpart]
  exact ⟨rfl, rfl⟩

end Sys2Proof.Machine
end

section
/-! Headers, CRCs and missing delimiters, and every class of a receive part (R131, R132, R137 to R141, R196). -/

namespace Sys2Proof.Machine

-- One proof after another, not in parallel: the whole text compiles under a bound on memory.
set_option Elab.async false

/-! ### Headers (R132, R140, R141) -/

/-- A header of a kind from 4 on, or of a length from 9 on, is MALFORMED (R140). -/
theorem cellsAfterHeader_malformed {header : List Bool} (hh : header.length = 32)
    (h : header[0]? = some true ∨
      (header[19]? = some true ∧ some true ∈ [header[20]?, header[21]?, header[22]?])) :
    cellsAfterHeader header = none := by
  have hkind : ∀ b c : Bool, segKindOf (fieldOf 3 [true, b, c]) = none := by decide
  have hlength : ∀ b c d : Bool, true ∈ [b, c, d] → ¬ (fieldOf 4 [true, b, c, d]).toNat ≤ 8 := by decide
  refine if_neg fun ⟨hsome, hle⟩ => ?_
  obtain h0 | ⟨h19, hrest⟩ := h
  · have htake : header.take 3 = [true, header[1], header[2]] := by
      rw [List.getElem?_eq_getElem (by omega), Option.some_inj] at h0
      rw [List.take_succ_eq_append_getElem (by omega), List.take_succ_eq_append_getElem (by omega),
        List.take_succ_eq_append_getElem (by omega), h0]
      rfl
    rw [htake, hkind] at hsome
    cases hsome
  · have hdrop : (header.drop 19).take 4 = [true, header[20], header[21], header[22]] := by
      rw [List.getElem?_eq_getElem (by omega), Option.some_inj] at h19
      rw [List.drop_eq_getElem_cons (by omega), List.drop_eq_getElem_cons (by omega),
        List.drop_eq_getElem_cons (by omega), List.drop_eq_getElem_cons (by omega), h19]
      rfl
    rw [hdrop] at hle
    refine hlength _ _ _ ?_ hle
    simpa [hh] using hrest

/-- The stage at a header's last cell. -/
theorem takeCells_headerLast {pre lead init : List Bool} (hpre : takeCells lockStage pre = .inr (.header 32 lead []))
    (hi : init.length = 31) : takeCells lockStage (pre ++ init) = .inr (.header 1 lead init.reverse) := by
  have := takeCells_header (l := 1) (lead := lead) (cells := init) (got := []) (by omega)
  rw [takeCells_append, hpre]
  simpa [hi] using this

/-- The part is MALFORMED as soon as its header is, whatever follows (R140). -/
theorem ends_malformed {header rest : List Bool} {t : Nat} (hh : header.length = 32) (ht : t < 16000)
    (h : cellsAfterHeader header = none) :
    Ends (cellEdges 500 t (preambleCells ++ delimiterCells ++ header ++ rest)) .malformed false := by
  obtain ⟨init, last, rfl⟩ : ∃ init last, header = init ++ [last] :=
    ⟨_, _, (List.dropLast_append_getLast (List.ne_nil_of_length_pos (by omega))).symm⟩
  have hi : init.length = 31 := by simpa using hh
  have hmid := takeCells_headerLast (takeCells_longerPreamble (more := 0) (by omega)) hi
  simp only [List.replicate_zero, List.flatten_nil, List.nil_append] at hmid
  have hlast : takeCell (.header 1 (preambleCells ++ delimiterCells).reverse init.reverse) last =
      .inl (.malformed, preambleCells ++ delimiterCells ++ init ++ [last]) := by
    simp [takeCell, h]
  have hcells : preambleCells ++ delimiterCells ++ (init ++ [last]) ++ rest = true :: false :: true :: false ::
      (((preambleCells ++ delimiterCells).drop 4 ++ init) ++ last :: rest) := by
    have : preambleCells ++ delimiterCells = true :: false :: true :: false :: (preambleCells ++ delimiterCells).drop 4 :=
      longerPreamble_eq_cons (more := 0) (by omega)
    rw [this]
    simp
  have hlen : ((preambleCells ++ delimiterCells).drop 4 ++ init).length = 51 := by
    rw [List.length_append, hi]
    rfl
  have hclosing : closing = 152000 := rfl
  have hheard := hear_cells_settled (t := t) (v := true) (more := rest) (upTo := closing) goodHalf_500 (by omega)
    (List.ne_nil_of_length_pos (by omega)) rfl hmid hlast (by simp only [spanEnd, hlen]; omega)
    (by simp only [spanEnd, hlen]; omega)
  rw [Bool.not_true, ← hcells] at hheard
  unfold Ends
  rw [receivePart_of_hear hheard]
  exact ⟨rfl, rfl⟩

/-- A received header of a kind 0 to 3 and a length in range, with its payload and any CRC: GOOD or CRC_BAD by the CRC
(R132, R141). -/
theorem ends_header {header body : List Bool} {crc : Half} {p t : Nat} (hh : header.length = 32)
    (hk : header[0]? = some false) (hp : (fieldOf 4 ((header.drop 19).take 4)).toNat = p) (h8 : p ≤ 8)
    (hb : body.length = 8 * p) (ht : t < 16000) :
    (crc = segmentCrc (header ++ body) → ∃ seg, coveredBits seg = ((header ++ body).set 15 false).set 23 false ∧
      Ends (cellEdges 500 t (preambleCells ++ delimiterCells ++ header ++ body ++ bitsOf crc)) (.good seg) false) ∧
    (crc ≠ segmentCrc (header ++ body) →
      Ends (cellEdges 500 t (preambleCells ++ delimiterCells ++ header ++ body ++ bitsOf crc)) .crcBad false) := by
  have hspells := spells_cells (more := 0) (crc := crc) (by omega) hh (cellsAfterHeader_good hh hk hp h8) hb
  rw [List.replicate_zero, List.flatten_nil, List.nil_append] at hspells
  have hpart := hspells.receivePart_eq (t := t) goodHalf_500 (by omega) (by
    have hpre : preambleCells.length = 16 := rfl
    have hdel : delimiterCells.length = 8 := rfl
    have hclosing : closing = 152000 := rfl
    simp only [List.length_append, hpre, hdel, hh, hb, length_bitsOf]
    omega)
  rw [classOfCells_crc] at hpart
  unfold Ends
  rw [hpart]
  refine ⟨fun hcrc => ?_, fun hcrc => ?_⟩
  · obtain ⟨seg, hseg, -, hcovered⟩ := segmentOf_spells hh hk hp h8 hb
    refine ⟨seg, hcovered, ?_, rfl⟩
    rw [if_pos hcrc.symm, hseg]
    rfl
  · rw [if_neg (Ne.symm hcrc)]
    exact ⟨rfl, rfl⟩

/-! ### Without a delimiter (R139) -/

/-- A cell that ends no delimiter (R139). -/
theorem takeCell_preamble {n : Nat} {c : Bool} {got : List Bool} (h : ¬ delimiterCells <:+ (c :: got).reverse) :
    takeCell (.preamble n got) c =
      if n + 1 = 24 then .inl (.collided, (c :: got).reverse) else .inr (.preamble (n + 1) (c :: got)) := by
  refine if_neg fun he => h ?_
  rw [← he]
  exact List.reverse_suffix.mpr (List.take_prefix 8 (c :: got))

/-- Fewer than 24 cells without a delimiter stay in the preamble (R139). -/
theorem takeCells_preamble {n : Nat} {got cells : List Bool} (hn : n + cells.length < 24)
    (h : ¬ delimiterCells <:+: got.reverse ++ cells) :
    takeCells (.preamble n got) cells = .inr (.preamble (n + cells.length) (cells.reverse ++ got)) := by
  induction cells generalizing n got with
  | nil => rfl
  | cons c cells ih =>
    rw [List.length_cons] at hn ⊢
    have hall : got.reverse ++ c :: cells = (c :: got).reverse ++ cells := by simp
    rw [hall] at h
    have hstep : takeCell (.preamble n got) c = .inr (.preamble (n + 1) (c :: got)) := by
      rw [takeCell_preamble fun hs => h (hs.isInfix.trans (List.prefix_append _ _).isInfix), if_neg (by omega)]
    rw [takeCells, hstep]
    dsimp only
    rw [ih (by omega) h]
    simp [Nat.add_assoc, Nat.add_comm 1]

/-- A delimiter in the first 28 cells begins at one of the first 21. -/
theorem delimiter_not_infix {cells : List Bool} (hlen : 28 ≤ cells.length)
    (h : ∀ i ≤ 20, (cells.drop i).take 8 ≠ delimiterCells) : ¬ delimiterCells <:+: cells.take 28 := by
  rintro ⟨before, after, he⟩
  have hdel : delimiterCells.length = 8 := rfl
  have hbefore : before.length ≤ 20 := by
    have := congrArg List.length he
    simp only [List.length_append, List.length_take, hdel] at this
    omega
  refine h before.length hbefore ?_
  rw [← List.take_append_drop 28 cells, ← he, List.append_assoc, List.append_assoc, List.drop_left, ← hdel, List.take_left]

/-- Where the delimiter does not end within 24 cells of lock the part is COLLIDED (R139). -/
theorem ends_noDelimiter {v : Bool} {rest : List Bool} {t : Nat} (hrest : 24 ≤ rest.length) (ht : t < 16000)
    (h : ∀ i ≤ 20, ((v :: (!v) :: v :: (!v) :: rest).drop i).take 8 ≠ delimiterCells) :
    Ends (cellEdges 500 t (v :: (!v) :: v :: (!v) :: rest)) .collided false := by
  obtain ⟨mid, c, more, rfl, hmid⟩ : ∃ mid c more, rest = mid ++ c :: more ∧ mid.length = 23 :=
    ⟨rest.take 23, rest[23], rest.drop 24, by rw [← List.drop_eq_getElem_cons, List.take_append_drop],
      by rw [List.length_take]; omega⟩
  have hfirst : (v :: (!v) :: v :: (!v) :: (mid ++ c :: more)).take 28 = [v, !v, v, !v] ++ mid ++ [c] := by
    simp [List.take_append, hmid]
  have hno := delimiter_not_infix (by simpa using hrest) h
  rw [hfirst] at hno
  have hcells : takeCells (.preamble 0 [!v, v, !v, v]) mid = .inr (.preamble 23 (mid.reverse ++ [!v, v, !v, v])) := by
    rw [takeCells_preamble (by omega) fun hin =>
      hno (hin.trans (List.prefix_append ([v, !v, v, !v] ++ mid) [c]).isInfix), hmid]
  have hlast : takeCell (.preamble 23 (mid.reverse ++ [!v, v, !v, v])) c =
      .inl (.collided, (c :: (mid.reverse ++ [!v, v, !v, v])).reverse) := by
    rw [takeCell_preamble fun hs => hno (by simpa using hs.isInfix), if_pos rfl]
  have hclosing : closing = 152000 := rfl
  have hheard := hear_cells_settled (t := t) (v := v) (more := more) (upTo := closing) goodHalf_500 (by omega)
    (List.ne_nil_of_length_pos (by omega)) rfl hcells hlast (by simp only [spanEnd, hmid]; omega)
    (by simp only [spanEnd, hmid]; omega)
  unfold Ends
  rw [receivePart_of_hear hheard]
  exact ⟨rfl, rfl⟩

/-! ### Every class -/

/-- The form of a segment, field by field, most significant bit first (R131, R196). -/
theorem coveredBits_eq (seg : Segment) : coveredBits seg =
    bitsOf (segKindCode seg.kind) ++ bitsOf seg.address ++ bitsOf seg.seq ++
      [seg.first, seg.last, seg.ackValid, seg.busy, false] ++ bitsOf seg.ackSeq ++
      bitsOf (BitVec.ofNat 4 seg.payload.length) ++ [false] ++ bitsOf seg.echo ++ seg.payload.flatMap bitsOf := rfl

/-- A segment sent at exact bit times from inside the window: GOOD at its end, with its cells, and decoded cell by cell till
then (R129, R136 to R141). -/
theorem segment_good {seg : Segment} {t : Nat} (hp : seg.payload.length ≤ 8) (ht : t < 16000) :
    Ends (segmentEdges t seg) (.good seg) false ∧ Keeps (segmentEdges t seg) t (segmentCells seg) ∧
    ∀ upTo, hear (segmentEdges t seg) upTo (.wait []) = .settled (receivePart (segmentEdges t seg)) ↔
      t + 1000 * (segmentCells seg).length ≤ upTo := by
  have hspells := spells_segmentCells hp
  have hend : t + 2 * 500 * (segmentCells seg).length + 1500 < closing + 3 * 500 := by
    have hclosing : closing = 152000 := rfl
    rw [length_segmentCells]
    omega
  have hpart : receivePart (segmentEdges t seg) = found 500 t (segmentCells seg) (.good seg) :=
    hspells.receivePart_eq goodHalf_500 (by omega) hend
  unfold Ends Keeps
  rw [hpart]
  refine ⟨⟨rfl, rfl⟩, ⟨?_, rfl⟩, fun upTo => ⟨fun hheard => ?_, fun hu => ?_⟩⟩
  · exact congrArg some (by omega)
  · by_contra hu
    exact hspells.hear_open goodHalf_500 (by omega) hend (by omega) _ hheard
  · exact hspells.hear_eq goodHalf_500 (by omega) hend (by omega)

/-- A segment whose preamble begins after the window (R137). -/
theorem segment_late {seg : Segment} {t : Nat} (h : 16000 ≤ t) (ht : t + 3500 < closing) :
    Ends (segmentEdges t seg) .late true ∧ Keeps (segmentEdges t seg) t ((segmentCells seg).take 4) := by
  have hpart := receivePart_lateCells (rest := (segmentCells seg).drop 4) h ht
  have hcells : segmentCells seg = true :: false :: true :: false :: (segmentCells seg).drop 4 := rfl
  rw [← hcells] at hpart
  unfold Ends Keeps segmentEdges
  rw [hpart]
  exact ⟨⟨rfl, rfl⟩, rfl, rfl⟩

/-- A preamble of up to four cells more is as good, but a segment that then ends after bit time 152 is an overrun (R139,
R141). -/
theorem segment_longerPreamble {seg : Segment} {more t : Nat} (hp : seg.payload.length ≤ 8) (hm : more ≤ 2)
    (ht : t < 16000) :
    let cells := (List.replicate more [true, false]).flatten ++ segmentCells seg
    (t + 1000 * cells.length < closing → Ends (cellEdges 500 t cells) (.good seg) false) ∧
    (closing < t + 1000 * cells.length → Ends (cellEdges 500 t cells) .collided true) := by
  intro cells
  have hspells : Spells cells (.good seg) := spells_segment hp hm
  refine ⟨fun hend => ?_, fun hend => hspells.ends_overrun ht ?_ hend⟩
  · unfold Ends
    rw [hspells.receivePart_eq goodHalf_500 (by omega) (by omega)]
    exact ⟨rfl, rfl⟩
  · rw [List.length_append, length_segmentCells]
    omega

/-- Settles O42: the form of a segment, then each class by the lemma about its kind of part. -/
theorem aSegmentOnTheLineIsReceived : Obligations.ASegmentOnTheLineIsReceived := by
  unfold Obligations.ASegmentOnTheLineIsReceived
  intro preamble delimiter bits ends keeps
  have hdelimiter : delimiter = delimiterCells := by decide
  have hbits : ∀ {w : Nat} (x : BitVec w), bits w x.toNat = bitsOf x := fun x => (bitsOf_toNat x).symm
  have hclosing : closing = 152000 := rfl
  have hlen := length_segmentCells
  rw [hdelimiter]
  refine ⟨fun seg => ⟨?covered, ?cells⟩, hear_closing, fun seg t hp => ⟨fun ht => ?good, fun h16 ht => ?lateSegment⟩,
    fun seg half t hp h460 h540 ht hend => ?rate, fun header body crc p t hh hk hpay h8 hb ht => ?header,
    fun header rest t hh ht h => ends_malformed hh ht (cellsAfterHeader_malformed hh h), fun edges => receivePart_silent,
    fun before after a b c d ht hn hl ha => ?late, fun v rest t => ends_noDelimiter,
    fun seg more t hp hmore ht => ?longer, fun seg n t hp h4 hn ht => ?brokenOff,
    fun seg k t u rising hp h3 hk ht => ⟨fun hk3 hu hu' => ?inside, fun hk' hu hu' => ?boundary⟩⟩
  case covered =>
    rw [coveredBits_eq, bitsOf_ofNat]
    simp only [hbits]
    cases seg.kind <;> rfl
  case cells =>
    rw [hbits]
    rfl
  case good =>
    obtain ⟨hends, hkeeps, hwhen⟩ := segment_good hp ht
    rw [hlen] at hwhen
    refine ⟨hends, hkeeps, hwhen, fun k upTo h4 hk hu hu' => ?_⟩
    exact (spells_segmentCells hp).hear_decode ht (by rw [hlen]; omega) h4 (by rwa [hlen]) hu hu'
  case lateSegment => exact segment_late h16 ht
  case rate =>
    have hpart := (spells_segmentCells hp).receivePart_eq ⟨h460, h540⟩ ht (by rwa [hlen])
    exact ⟨by rw [hpart]; rfl, by rw [hpart]; rfl⟩
  case header =>
    rw [hbits]
    refine ends_header hh hk ?_ h8 hb ht
    rw [hpay]
    exact (congrArg BitVec.toNat (fieldOf_length h8)).trans (by simp; omega)
  case late =>
    have hpart := receivePart_late ht hn hl ha
    exact ⟨by rw [hpart], by rw [hpart]⟩
  case longer =>
    have h := segment_longerPreamble hp hmore ht
    have hmore' : ((List.replicate more [true, false]).flatten ++ segmentCells seg).length =
        72 + 8 * seg.payload.length + 2 * more := by
      rw [List.length_append, hlen]
      simp
      omega
    simp only [hmore'] at h
    exact h
  case brokenOff => exact (spells_segmentCells hp).broken_off ht (by rw [hlen]; omega) h4 (by rwa [hlen])
  case inside =>
    exact (spells_segmentCells hp).withChange_inside (x := ⟨u, rising⟩) ht (by rw [hlen]; omega) (by omega) (by rwa [hlen])
      hu hu'
  case boundary =>
    obtain rfl | h4 : k = 3 ∨ 4 ≤ k := by omega
    · exact (spells_segmentCells hp).withChange_lock (x := ⟨u, rising⟩) ht (by rw [hlen]; omega) hu hu'
    · exact (spells_segmentCells hp).withChange_boundary (x := ⟨u, rising⟩) ht (by rw [hlen]; omega) h4 (by rwa [hlen])
        hu hu'

end Sys2Proof.Machine
end

section
/-! Commands that may not happen now: events while RESETn is low or a reset is due, and requests that cannot be taken (R159,
R161, R165, R177; log 1). -/

namespace Sys2Proof.Machine

-- One proof after another, not in parallel: the whole text compiles under a bound on memory.
set_option Elab.async false

theorem resetDue_eq_any (s : State) : resetDue s = s.rex.resetInHand.any (·.replySent) := by
  unfold resetDue
  split <;> rename_i h <;> rw [h] <;> rfl

theorem held_iff {s : State} : held s = true ↔ s.resetLow = true ∨ s.rex.resetInHand.any (·.replySent) = true := by
  rw [held, Bool.or_eq_true, resetDue_eq_any]

/-- A request of an unknown kind is taken only as the oldest and with no reset in hand (R165). -/
theorem execUnknownRequestKind_cannot {kind tag : Byte} {body : List Byte} {s : State}
    (h : ∀ rest, ¬ CanTake ⟨kind, tag, body⟩ rest s) : execUnknownRequestKind kind tag body s = .next s := by
  unfold execUnknownRequestKind
  obtain hn | ⟨hh, t, ht, -⟩ := perform_next _ s
  · exact hn
  · have hlow : s.resetLow = false := (Bool.or_eq_false_iff.mp hh).1
    split at ht
    · rename_i r rest hinbox
      split at ht <;> cases ht
      rename_i hc
      obtain ⟨hnone, rfl, -⟩ := hc
      exact absurd ⟨hlow, hnone, hinbox⟩ (h rest)
    · cases ht

/-- A request command that cannot be taken leaves the state as it is, whatever its kind (R165; log 1). -/
theorem exec_cannotTake {c : Instr} {r : Request} {s : State} (hr : requestOf c = some r)
    (h : ∀ rest, ¬ CanTake r rest s) : exec c s = .next s := by
  cases c with
  | unknownRequestKind =>
    cases hr
    exact execUnknownRequestKind_cannot h
  | identify | status | configure | readConfig | counters | reset | start | stop | schedEdit | schedRead | schedCommit
  | enroll | retire | stationQuery | strangers | send | cancel | flush | msgStatus | fetch | grant =>
    cases hr
    exact request_cannot _ h
  | _ => cases hr

/-- Settles O3: every command but the resets is an event that held rules out, and a request is taken by the executor. -/
theorem commandsThatMayNotHappenNow : Obligations.CommandsThatMayNotHappenNow := by
  refine ⟨fun c s hs hpower hpin hlow hfull hbus hlink => ?_, fun c r s => exec_cannotTake⟩
  have hheld : held s = true := held_iff.mpr hs
  cases c with
  | powerOn a b => exact absurd rfl (hpower a b)
  | pinReset a b => exact absurd rfl (hpin a b)
  | resetnLow n => exact absurd rfl (hlow n)
  | fullReset => exact absurd rfl hfull
  | busReset => exact absurd rfl hbus
  | linkReset => exact absurd rfl hlink
  | _ => exact perform_held hheld

end Sys2Proof.Machine
end

section
/-! The second check byte, and characters with their errors (R149, R153, R155 to R157, R163). -/

namespace Sys2Proof.Machine

-- One proof after another, not in parallel: the whole text compiles under a bound on memory.
set_option Elab.async false

/-! ### The second check byte (R153, R155, R156) -/

/-- A good frame is counted and handed to the executor, and the receiver hunts (R155). -/
theorem exec_goodFrame {b : Byte} {r : Request} {s : State} (hh : held s = false) (hc : s.hlk.chr = .inCharacter)
    (hf : completedFrame b s.hlk.rx = some (r, true)) :
    exec (.goodFrame b) s = .next (arbitrate (acceptFrame r (countGlobal .framesReceived (afterByte .hunt s)))) := by
  have hin : inCharacter s = true := decide_eq_true hc
  change execGoodFrame b s = _
  rw [execGoodFrame, hin, hf, perform_some hh]

/-- A damaged frame is counted and answered with REJECT, and the receiver hunts (R156). -/
theorem exec_checkError {b : Byte} {r : Request} {s : State} (hh : held s = false) (hc : s.hlk.chr = .inCharacter)
    (hf : completedFrame b s.hlk.rx = some (r, false)) :
    exec (.checkError b) s = .next (arbitrate (refuse (rejectFrame r.kind r.tag) none (some .rejectsDropped)
      (countGlobal .checkErrors (afterByte .hunt s)))) := by
  have hin : inCharacter s = true := decide_eq_true hc
  change execCheckError b s = _
  rw [execCheckError, hin, hf, perform_some hh]

/-- The frame that the second check byte completes, with its check compared (R153, R154). -/
theorem completedFrame_check (b high kind tag : Byte) (body : List Byte) (n : Nat) (check : Half) :
    completedFrame b (.check n (kind :: tag :: body) check (some high)) =
      some (⟨kind, tag, body⟩, decide (high ++ b = check)) := rfl

/-! ### A frame handed over or refused (R156, R163) -/

theorem acceptFrame_room (r : Request) {s : State} (hi : s.rex.inbox.length < 4) (ho : s.rex.openCount < 8) :
    acceptFrame r s = countGlobal .requestsAccepted
      { s with rex := { s.rex with inbox := s.rex.inbox ++ [r], openCount := s.rex.openCount + 1 } } := if_pos ⟨hi, ho⟩

theorem acceptFrame_full (r : Request) {s : State} (h : 4 ≤ s.rex.inbox.length ∨ 8 ≤ s.rex.openCount) :
    acceptFrame r s =
      refuse (replyFrame r.kind r.tag .inboxFull []) (some .inboxFullReplies) (some .inboxFullRepliesDropped) s :=
  if_neg fun ⟨hi, ho⟩ => h.elim (Nat.not_le.mpr hi) (Nat.not_le.mpr ho)

/-- A refusal with a place joins the reply queue and counts itself, where it has a counter. -/
theorem refuse_place (f : Frame) (made dropped : Option GlobalCounter) {s : State} (h : s.ntq.refusals < 2) :
    refuse f made dropped s =
      made.elim id countGlobal (joinReplies f .refusal { s with ntq.refusals := s.ntq.refusals + 1 }) := by
  rw [refuse, if_pos h]
  cases made <;> rfl

/-- A refusal without a place is dropped, and the drop counted. -/
theorem refuse_noPlace (f : Frame) (made dropped : Option GlobalCounter) {s : State} (h : 2 ≤ s.ntq.refusals) :
    refuse f made dropped s = dropped.elim id countGlobal s := by
  rw [refuse, if_neg (Nat.not_lt.mpr h)]
  cases dropped <;> rfl

/-- Settles O44: the completed frame with its check, then the room for a request or for a refusal. -/
theorem theSecondCheckByteCompletesAFrame : Obligations.TheSecondCheckByteCompletesAFrame := by
  intro b high kind tag body n check s hh hc hrx taken refused
  have hf : completedFrame b s.hlk.rx = some (⟨kind, tag, body⟩, decide (high ++ b = check)) := by
    rw [hrx, completedFrame_check]
  let heard (c : GlobalCounter) : State := countGlobal c (afterByte .hunt s)
  have good (hgood : high ++ b = check) :
      exec (.goodFrame b) s = .next (arbitrate (acceptFrame ⟨kind, tag, body⟩ (heard .framesReceived))) :=
    exec_goodFrame (r := ⟨kind, tag, body⟩) hh hc (hf.trans (by rw [decide_eq_true hgood]))
  have bad (hbad : high ++ b ≠ check) :
      exec (.checkError b) s =
        .next (arbitrate (refuse (rejectFrame kind tag) none (some .rejectsDropped) (heard .checkErrors))) :=
    exec_checkError (r := ⟨kind, tag, body⟩) hh hc (hf.trans (by rw [decide_eq_false hbad]))
  refine ⟨?accepted, ?inboxFull, ?fullDropped, ?reject, ?rejectDropped⟩
  case accepted =>
    intro hgood hi ho
    rw [good hgood, acceptFrame_room (s := heard .framesReceived) _ hi ho]
    rfl
  case inboxFull =>
    intro hgood hfull hfree
    rw [good hgood, acceptFrame_full (s := heard .framesReceived) _ hfull,
      refuse_place (s := heard .framesReceived) _ _ _ hfree]
    rfl
  case fullDropped =>
    intro hgood hfull hnone
    rw [good hgood, acceptFrame_full (s := heard .framesReceived) _ hfull,
      refuse_noPlace (s := heard .framesReceived) _ _ _ hnone]
    rfl
  case reject =>
    intro hbad hfree
    rw [bad hbad, refuse_place (s := heard .checkErrors) _ _ _ hfree]
    rfl
  case rejectDropped =>
    intro hbad hnone
    rw [bad hbad, refuse_noPlace (s := heard .checkErrors) _ _ _ hnone]
    rfl

/-! ### Characters (R149, R157) -/

/-- An event with a condition that holds. -/
theorem perform_if {P : Prop} [Decidable P] {u s : State} (hh : held s = false) (h : P) :
    perform (if P then some u else none) s = .next (arbitrate u) := by rw [if_pos h, perform_some hh]

/-- A falling edge with a low sample begins a character (R149). -/
theorem exec_characterStartEdge {s : State} (hh : held s = false) (hready : s.hlk.chr = .ready) :
    exec (.characterStartEdge false) s = .next (arbitrate (beginCharacter s)) := perform_if hh ⟨hready, rfl⟩

/-- A glitch is ignored (R149). -/
theorem exec_glitch (s : State) : exec (.characterStartEdge true) s = .next s := by
  change perform (if s.hlk.chr = .ready ∧ true = false then some (beginCharacter s) else none) s = _
  rw [if_neg (fun h => nomatch h.2), perform_none]

/-- Settles O45: each event of the character receiver and of the gap timer, in the state that lets it happen. -/
theorem charactersAndTheirErrors : Obligations.CharactersAndTheirErrors := by
  intro s hh
  have hin (hc : s.hlk.chr = .inCharacter) : inCharacter s = true := decide_eq_true hc
  exact ⟨exec_characterStartEdge hh, exec_glitch s, fun hc => perform_if hh (hin hc), fun hc => perform_if hh (hin hc),
    fun hc => perform_if hh hc, fun hg => perform_if hh hg⟩

end Sys2Proof.Machine
end

section
/-! The outbound arbiter's choice, the frames of the notices, and the end of a frame on the transmitter (R158, R164, R177, R185,
R187 to R192, R195). -/

namespace Sys2Proof.Machine

-- One proof after another, not in parallel: the whole text compiles under a bound on memory.
set_option Elab.async false

/-! ### The arbiter's choice (R185, R188 to R190) -/

theorem arbitrate_blocked {s : State} (h : s.ntq.tx ≠ none ∨ held s = true) : arbitrate s = s := by
  refine if_pos ?_
  rw [Bool.or_assoc, Bool.or_eq_true, Option.isSome_iff_ne_none]
  exact h

section Free

variable {s : State} (htx : s.ntq.tx = none) (hh : held s = false)

include htx hh

/-- On an idle transmitter, out of reset, the arbiter looks at the three queues in their order. -/
theorem not_blocked : ¬ (s.ntq.tx.isSome || s.resetLow || resetDue s) = true := by
  rw [Bool.or_assoc, htx]
  exact Bool.eq_false_iff.mp hh

theorem arbitrate_owesStartUp {c : Cause} (hc : s.ntq.startUp = some c) :
    arbitrate s = startFrame (startUpFrame c) .startUp { s with ntq.startUp := none } := by
  rw [arbitrate, if_neg (not_blocked htx hh), hc]

theorem arbitrate_oldestReply {r : Reply} {rest : List Reply} (hup : s.ntq.startUp = none)
    (hr : s.ntq.replies = r :: rest) : arbitrate s = startFrame r.frame .reply s := by
  rw [arbitrate, if_neg (not_blocked htx hh), hup, hr]

theorem arbitrate_noCredit (hup : s.ntq.startUp = none) (hr : s.ntq.replies = []) (hc : s.ntq.credits = 0) :
    arbitrate s = s := by
  simp only [arbitrate, if_neg (not_blocked htx hh), hup, hr, if_pos hc]

theorem arbitrate_noNotice (hup : s.ntq.startUp = none) (hr : s.ntq.replies = []) (hn : s.ntq.notices = [])
    (hm : s.ntq.marker = none) : arbitrate s = s := by
  simp only [arbitrate, if_neg (not_blocked htx hh), hup, hr, hn, hm, ite_self]

theorem arbitrate_headNotice {n : Notice} {rest : List Notice} (hup : s.ntq.startUp = none) (hr : s.ntq.replies = [])
    (hc : s.ntq.credits ≠ 0) (hn : s.ntq.notices = n :: rest) :
    arbitrate s = startFrame (noticeFrame n) .notice { s with ntq.credits := s.ntq.credits - 1 } := by
  simp only [arbitrate, if_neg (not_blocked htx hh), hup, hr, if_neg hc, hn]

theorem arbitrate_loneMarker {k : Nat} (hup : s.ntq.startUp = none) (hr : s.ntq.replies = [])
    (hc : s.ntq.credits ≠ 0) (hn : s.ntq.notices = []) (hm : s.ntq.marker = some k) :
    arbitrate s = startFrame (overflowFrame k) .overflow
      { s with ntq.marker := some 0, ntq.credits := s.ntq.credits - 1 } := by
  simp only [arbitrate, if_neg (not_blocked htx hh), hup, hr, if_neg hc, hn, hm]

end Free

/-- Settles O49: the notice frames, code by code, and the arbiter's choice, queue by queue. -/
theorem theArbiterChooses : Obligations.TheArbiterChooses := by
  refine ⟨⟨fun a old new => ?presence, fun a cls => rfl, fun a cls why => ?stranger, fun a => rfl,
    fun h dest result why => ?outcome, fun count => rfl, fun streak cycle => rfl⟩, fun s => ⟨arbitrate_blocked, ?free⟩⟩
  case presence => cases old <;> cases new <;> rfl
  case stranger => cases why <;> rfl
  case outcome => cases result <;> cases why <;> rfl
  case free =>
    refine fun htx hh => ⟨fun c hc => ?_, fun r rest hup hr => arbitrate_oldestReply htx hh hup hr, fun hup hr =>
      ⟨?_, fun n rest hc hn => arbitrate_headNotice htx hh hup hr hc hn,
        fun k hc hn hm => arbitrate_loneMarker htx hh hup hr hc hn hm⟩⟩
    · rw [arbitrate_owesStartUp htx hh hc]
      cases c <;> rfl
    · rintro (hc | ⟨hn, hm⟩)
      · exact arbitrate_noCredit htx hh hup hr hc
      · exact arbitrate_noNotice htx hh hup hr hn hm

/-! ### The end of a frame (R158, R164, R177, R185, R187, R189, R191) -/

/-- ATTN after an entry has left: released in level mode with the last one (R191). -/
theorem attnOnLeave_eq (s : State) : attnOnLeave s =
    { s with ntq.attn :=
      if s.rex.config.attnMode = .level ∧ s.ntq.notices = [] ∧ s.ntq.marker = none then false else s.ntq.attn } := by
  have hempty : noticeQueueEmpty s = true ↔ s.ntq.notices = [] ∧ s.ntq.marker = none := by simp [noticeQueueEmpty]
  unfold attnOnLeave
  split <;> rename_i hm
  · simp only [hm, true_and, ← hempty]
    split <;> rfl
  · simp [hm]

theorem exec_frameSent {f : Frame} {src : TxSource} {s : State} (hh : held s = false)
    (htx : s.ntq.tx = some { frame := f, source := src }) :
    exec .frameSent s = .next (arbitrate (frameSent src { s with ntq.tx := none })) := by
  change execFrameSent s = _
  rw [execFrameSent, htx, Option.map_some, perform_some hh]

/-- A reply leaves its queue and is counted; then its place is freed (R158, R164, R187). -/
theorem replySent_cons {r : Reply} {rest : List Reply} {s : State} (hr : s.ntq.replies = r :: rest) :
    let t := countGlobal .repliesSent { s with ntq.replies := rest }
    (r.place = .request → replySent s = { t with rex.openCount := s.rex.openCount - 1 }) ∧
    (r.place = .refusal → replySent s = { t with ntq.refusals := s.ntq.refusals - 1 }) ∧
    (r.place = .reset → replySent s = { t with rex := { s.rex with
      openCount := s.rex.openCount - 1,
      resetInHand := s.rex.resetInHand.map fun x => { x with replySent := true } } }) := by
  refine ⟨fun hp => ?_, fun hp => ?_, fun hp => ?_⟩ <;>
  · simp only [replySent, hr, hp]
    rfl

/-- A marker that has counted nothing meanwhile leaves after its OVERFLOW frame, and ATTN with it in level mode (R185, R191). -/
theorem overflowSent_eq {k : Nat} {s : State} (hn : s.ntq.notices = []) (hm : s.ntq.marker = some k) :
    overflowSent s = { countGlobal .overflowNoticesSent (countGlobal .noticesSent s) with
      ntq := { s.ntq with marker := if k = 0 then none else some k,
                          attn := if s.rex.config.attnMode = .level ∧ k = 0 then false else s.ntq.attn } } := by
  have hmarker : (if s.ntq.marker = some 0 then none else s.ntq.marker) = if k = 0 then none else some k := by simp [hm]
  rw [overflowSent, hmarker, attnOnLeave_eq]
  simp [hn]
  rfl

/-- Settles O50: each source of a frame by what its end does, with ATTN at the last entry, and the end of a pulse. -/
theorem framesSentLeaveTheirQueues : Obligations.FramesSentLeaveTheirQueues := by
  intro s hh released
  refine ⟨fun f htx => exec_frameSent hh htx, fun f r rest htx hr => ?reply, fun f n rest htx hn => ?notice,
    fun f k htx hn hm => ?overflow, fun k hk => perform_if hh (by rw [hk]; rfl)⟩
  case reply =>
    obtain ⟨hrequest, hrefusal, hreset⟩ := replySent_cons (s := { s with ntq.tx := none }) hr
    have sent : exec .frameSent s = .next (arbitrate (replySent { s with ntq.tx := none })) := exec_frameSent hh htx
    exact ⟨fun hp => by rw [sent, hrequest hp], fun hp => by rw [sent, hrefusal hp],
      fun hp => by rw [sent, hreset hp]⟩
  case notice =>
    rw [exec_frameSent hh htx, frameSent, noticeSent, attnOnLeave_eq]
    simp only [hn]
    rfl
  case overflow =>
    rw [exec_frameSent hh htx, frameSent, overflowSent_eq (s := { s with ntq.tx := none }) hn hm]
    rfl

end Sys2Proof.Machine
end

section
/-! A whole frame on the link, character by character: the arbiter's choice beside the receiver, the bytes that fill a frame up to
its check, and the frame handed over (R149, R151 to R155, R163, R188). -/

namespace Sys2Proof.Machine

-- One proof after another, not in parallel: the whole text compiles under a bound on memory.
set_option Elab.async false

/-! ### The arbiter's choice beside the receiver (R188) -/

/-- The arbiter changes nothing but its own block. -/
theorem arbitrate_eq_ntq (s : State) : arbitrate s = { s with ntq := (arbitrate s).ntq } := by
  unfold arbitrate
  (repeat' split) <;> rfl

/-- The arbiter looks at its own block, RESETn and the reset in hand alone. -/
theorem arbitrate_ntq_congr {s t : State} (hn : t.ntq = s.ntq) (hl : t.resetLow = s.resetLow)
    (hr : t.rex.resetInHand = s.rex.resetInHand) : (arbitrate t).ntq = (arbitrate s).ntq := by
  have hdue : resetDue t = resetDue s := by rw [resetDue, hr, resetDue]
  unfold arbitrate
  rw [hn, hl, hdue]
  (repeat' split) <;> simp_all [startFrame]

theorem arbitrate_arbitrate (s : State) : arbitrate (arbitrate s) = arbitrate s := by
  obtain h | ⟨-, -, hbusy⟩ := arbitrate_cases s
  · rw [h, h]
  · exact arbitrate_busy hbusy

/-- Events that do not concern the arbiter leave its choice what it was before them. -/
theorem arbitrate_of_beside {s t : State} (hn : t.ntq = s.ntq) (hl : t.resetLow = s.resetLow)
    (hr : t.rex.resetInHand = s.rex.resetInHand) : arbitrate t = { t with ntq := (arbitrate s).ntq } := by
  rw [arbitrate_eq_ntq t, arbitrate_ntq_congr hn hl hr]

/-- A choice made before such events stands after them. -/
theorem arbitrate_of_chosen {s t : State} (hn : t.ntq = (arbitrate s).ntq) (hl : t.resetLow = s.resetLow)
    (hr : t.rex.resetInHand = s.rex.resetInHand) : arbitrate t = t := by
  have h : arbitrate t = { t with ntq := (arbitrate (arbitrate s)).ntq } :=
    arbitrate_of_beside hn (hl.trans (arbitrate_resetLow s).symm) (by rw [hr, arbitrate_rex])
  rw [h, arbitrate_arbitrate, ← hn]

/-! ### Characters one after another (R149, R151 to R153) -/

/-- The commands that bring bytes of a partial frame on RXD. -/
def charactersOf (bytes : List Byte) : List Instr :=
  bytes.flatMap fun b => [.characterStartEdge false, .frameByteTaken b]

theorem length_charactersOf (bytes : List Byte) : (charactersOf bytes).length = 2 * bytes.length := by
  simp [charactersOf, Nat.mul_comm]

/-- The receiver after a byte of a partial frame, with the commands that wait, and the arbiter's choice made. -/
def inFrame (rx : FrameRx) (waiting : List Instr) (s : State) : State :=
  { s with hlk := { s.hlk with rx := rx, gap := .running, chr := .ready }, ntq := (arbitrate s).ntq, pending := waiting }

theorem arbitrate_inFrame (rx : FrameRx) (waiting : List Instr) (s : State) :
    arbitrate (inFrame rx waiting s) = inFrame rx waiting s := arbitrate_of_chosen (s := s) rfl rfl rfl

theorem arbitrate_ntq_inFrame (rx : FrameRx) (waiting : List Instr) (s : State) :
    (arbitrate (inFrame rx waiting s)).ntq = (arbitrate s).ntq := by
  rw [arbitrate_inFrame]
  rfl

/-- Each byte has the receiver state of the one before it replaced by its own. -/
theorem inFrame_inFrame (rx rx' : FrameRx) (waiting waiting' : List Instr) (s : State) :
    inFrame rx' waiting' (inFrame rx waiting s) = inFrame rx' waiting' s := by
  rw [inFrame, arbitrate_ntq_inFrame]
  rfl

theorem run_of_step {M : Host.Core} {s t : M.State} (h : M.step s = .next t) (k : Nat) :
    M.run (k + 1) s = M.run k t := by rw [Host.Core.run, h]

theorem core_run_of_step {s t : State} (h : step s = .next t) (k : Nat) : core.run (k + 1) s = core.run k t :=
  run_of_step (M := core) (s := s) (t := t) h k

/-- A falling edge begins a character, and the arbiter makes its choice (R149, R188). -/
theorem run_characterStartEdge {s : State} (hh : held s = false) (hready : s.hlk.chr = .ready) (k : Nat)
    (waiting : List Instr) :
    core.run (k + 1) { s with pending := .characterStartEdge false :: waiting } =
      core.run k { beginCharacter s with ntq := (arbitrate s).ntq, pending := waiting } := by
  let t := beginCharacter { s with pending := waiting }
  have hstep : step { s with pending := .characterStartEdge false :: waiting } = .next (arbitrate t) :=
    exec_characterStartEdge (s := { s with pending := waiting }) hh hready
  have hchoice : arbitrate t = { beginCharacter s with ntq := (arbitrate s).ntq, pending := waiting } :=
    arbitrate_of_beside (s := s) rfl rfl rfl
  exact core_run_of_step (hstep.trans (congrArg Host.Outcome.next hchoice)) k

/-- One character of a partial frame (R149, R151 to R153). -/
theorem run_character {b : Byte} {rx : FrameRx} {s : State} (hh : held s = false) (hready : s.hlk.chr = .ready)
    (hb : extendFrame b s.hlk.rx = some rx) (k : Nat) (waiting : List Instr) :
    core.run (k + 2) { s with pending := .characterStartEdge false :: .frameByteTaken b :: waiting } =
      core.run k (inFrame rx waiting s) := by
  let t : State := { beginCharacter s with ntq := (arbitrate s).ntq, pending := waiting }
  have hstep : step { t with pending := .frameByteTaken b :: waiting } = .next (arbitrate (inFrame rx waiting s)) :=
    exec_frameByteTaken (s := t) hh rfl hb
  rw [arbitrate_inFrame] at hstep
  exact (run_characterStartEdge hh hready (k + 1) _).trans (core_run_of_step hstep k)

/-- The characters of a run of bytes that fill a partial frame from one receiver state to another. -/
theorem run_charactersOf {b : Byte} {bytes : List Byte} {rx : FrameRx} {s : State} (hh : held s = false)
    (hready : s.hlk.chr = .ready) (hb : (b :: bytes).foldlM (fun rx b => extendFrame b rx) s.hlk.rx = some rx) (k : Nat)
    (waiting : List Instr) :
    core.run (k + 2 * (bytes.length + 1)) { s with pending := charactersOf (b :: bytes) ++ waiting } =
      core.run k (inFrame rx waiting s) := by
  rw [List.foldlM_cons] at hb
  obtain ⟨rx₁, hfirst, hrest⟩ := Option.bind_eq_some_iff.mp hb
  induction bytes generalizing b s rx₁ with
  | nil =>
    cases hrest
    exact run_character hh hready hfirst k waiting
  | cons c bytes ih =>
    let t := inFrame rx₁ (charactersOf (c :: bytes) ++ waiting) s
    rw [List.foldlM_cons] at hrest
    obtain ⟨rx₂, hsecond, hmore⟩ := Option.bind_eq_some_iff.mp hrest
    calc core.run (k + 2 * (bytes.length + 1) + 2) { s with pending := charactersOf (b :: c :: bytes) ++ waiting }
      _ = core.run (k + 2 * (bytes.length + 1)) t := run_character hh hready hfirst _ _
      _ = core.run k (inFrame rx waiting t) := ih (s := t) hh rfl hrest rx₂ hsecond hmore
      _ = core.run k (inFrame rx waiting s) := by rw [inFrame_inFrame]

/-! ### The bytes of a frame (R151 to R154) -/

/-- The bytes of the body fill it, and each enters the check (R153, R154). -/
theorem foldlM_extendFrame_body {n : Nat} {b : Byte} {bytes kept : List Byte} {check : Half}
    (hn : kept.length + (bytes.length + 1) = n) :
    (b :: bytes).foldlM (fun rx b => extendFrame b rx) (.body n kept check) =
      some (.check n (kept ++ b :: bytes) ((b :: bytes).foldl frameCheckByte check) none) := by
  induction bytes generalizing b kept check with
  | nil =>
    have hlast : ¬ kept.length + 1 < n := hn ▸ Nat.lt_irrefl _
    simp [extendFrame, hlast]
  | cons c bytes ih =>
    rw [List.length_cons] at hn
    have hmore : kept.length + 1 < n := by omega
    have hkept : (kept ++ [b]).length + (bytes.length + 1) = n := by
      rw [List.length_append, List.length_singleton]
      omega
    have hfirst : extendFrame b (.body n kept check) = some (.body n (kept ++ [b]) (frameCheckByte check b)) :=
      if_pos hmore
    have hrest := ih (b := c) (check := frameCheckByte check b) hkept
    rw [List.foldlM_cons, hfirst]
    refine hrest.trans ?_
    rw [List.append_assoc, List.foldl_cons]
    rfl

/-- The bytes of a frame from its marker to its first check byte (R151 to R154). -/
theorem foldlM_extendFrame_frame {f : Frame} (hf : f.body.length ≤ 248) (high : Byte) :
    (marker :: (checkedBytes f ++ [high])).foldlM (fun rx b => extendFrame b rx) .hunt =
      some (.check (f.body.length + 2) (f.kind :: f.tag :: f.body) (frameCheck (checkedBytes f)) (some high)) := by
  let n := f.body.length + 2
  have hn : (oneByte n).toNat = n := by
    rw [oneByte, BitVec.toNat_ofNat]
    omega
  have hmarker : extendFrame marker .hunt = some .length := rfl
  have hlength : extendFrame (oneByte n) .length = some (.body n [] (frameCheckByte frameCheckStart (oneByte n))) := by
    rw [extendFrame, hn, if_pos (by omega)]
  have hbody := foldlM_extendFrame_body (n := n) (b := f.kind) (bytes := f.tag :: f.body) (kept := [])
    (check := frameCheckByte frameCheckStart (oneByte n)) (by simp [n])
  have hlist : marker :: (checkedBytes f ++ [high]) = marker :: oneByte n :: (f.kind :: f.tag :: f.body ++ [high]) := rfl
  have hcheck : (f.kind :: f.tag :: f.body).foldl frameCheckByte (frameCheckByte frameCheckStart (oneByte n)) =
      frameCheck (checkedBytes f) := by
    simp only [frameCheck, checkedBytes, List.foldl_cons, n]
  rw [hcheck] at hbody
  rw [hlist, List.foldlM_cons, hmarker, Option.bind_eq_bind, Option.bind_some, List.foldlM_cons, hlength,
    Option.bind_eq_bind, Option.bind_some, List.foldlM_append, hbody]
  rfl

/-- The two check bytes spell the check (R154, R195). -/
theorem twoBytes_append (check : Half) : BitVec.ofNat 8 (check.toNat / 256) ++ BitVec.ofNat 8 check.toNat = check := by
  apply BitVec.eq_of_toNat_eq
  have hlow : (BitVec.ofNat 8 check.toNat).toNat < 2 ^ 8 := BitVec.isLt _
  rw [BitVec.toNat_append, ← Nat.shiftLeft_add_eq_or_of_lt hlow, Nat.shiftLeft_eq, BitVec.toNat_ofNat, BitVec.toNat_ofNat]
  omega

/-! ### The frame handed over (R155, R163) -/

/-- A request at the tail of the inbox, counted, with the commands that wait (R155, R163). -/
def handedOver (r : Request) (waiting : List Instr) (s : State) : State :=
  { countGlobal .framesReceived (countGlobal .requestsAccepted s) with
    rex := { s.rex with inbox := s.rex.inbox ++ [r], openCount := s.rex.openCount + 1 },
    pending := waiting }

/-- The character of the second check byte, the arbiter's choice made (R149, R188). -/
def inLastCharacter (rx : FrameRx) (waiting : List Instr) (s : State) : State :=
  { beginCharacter (inFrame rx [] s) with ntq := (arbitrate s).ntq, pending := waiting }

section Last

variable {rx : FrameRx} {r : Request} {s : State} (hrx : s.hlk.rx = .hunt) (hready : s.hlk.chr = .ready)
  (hgap : s.hlk.gap = .stopped) (hroom : s.rex.inbox.length < 4) (hopen : s.rex.openCount < 8)

include hrx hready hgap hroom hopen

/-- The receiver hunts again as it did before the frame, and the arbiter's choice stands. -/
theorem acceptFrame_inLastCharacter (waiting : List Instr) :
    acceptFrame r (countGlobal .framesReceived (afterByte .hunt (inLastCharacter rx waiting s))) =
      arbitrate (handedOver r waiting s) := by
  let heard := countGlobal .framesReceived (afterByte .hunt (inLastCharacter rx waiting s))
  have hlate : arbitrate (handedOver r waiting s) = { handedOver r waiting s with ntq := (arbitrate s).ntq } :=
    arbitrate_of_beside (s := s) rfl rfl rfl
  have hhlk : ({ s.hlk with rx := .hunt, gap := .stopped, chr := .ready } : Hlk) = s.hlk := by
    rw [← hrx, ← hgap, ← hready]
  have hcounters := congrArg State.counters (countGlobal_comm .requestsAccepted .framesReceived s)
  have haccept : acceptFrame r heard =
      { handedOver r waiting s with
        hlk := { s.hlk with rx := .hunt, gap := .stopped, chr := .ready }, ntq := (arbitrate s).ntq,
        counters := (countGlobal .requestsAccepted (countGlobal .framesReceived s)).counters } := by
    rw [acceptFrame_room (s := heard) r hroom hopen]
    rfl
  rw [haccept, hlate, hhlk, hcounters]
  rfl

/-- The last character of a good frame: the request joins the inbox (R155, R163). -/
theorem run_lastCharacter {b : Byte} (hh : held s = false) (hf : completedFrame b rx = some (r, true))
    (waiting : List Instr) :
    core.run 2 (inFrame rx (.characterStartEdge false :: .goodFrame b :: waiting) s) =
      .next (arbitrate (handedOver r waiting s)) := by
  have hedge := run_characterStartEdge (s := inFrame rx [] s) hh rfl 1 (.goodFrame b :: waiting)
  have hstep : step (inLastCharacter rx (.goodFrame b :: waiting) s) = .next (arbitrate (acceptFrame r
      (countGlobal .framesReceived (afterByte .hunt (inLastCharacter rx waiting s))))) :=
    exec_goodFrame (s := inLastCharacter rx waiting s) hh rfl hf
  rw [arbitrate_ntq_inFrame] at hedge
  rw [acceptFrame_inLastCharacter hrx hready hgap hroom hopen, arbitrate_arbitrate] at hstep
  exact hedge.trans (core_run_of_step hstep 0)

end Last

/-- Settles O46: the characters up to the first check byte fill the frame, and the second hands it over. -/
theorem aFrameOnTheLinkIsReceived : Obligations.AFrameOnTheLinkIsReceived := by
  intro f rest s hlen hh hrx hready hgap hroom hopen bytes commands
  let check := frameCheck (checkedBytes f)
  let high : Byte := BitVec.ofNat 8 (check.toNat / 256)
  let low : Byte := BitVec.ofNat 8 check.toNat
  have hbytes : bytes = marker :: (checkedBytes f ++ [high]) ++ [low] := by
    simp [bytes, wireBytes, twoBytes, high, low, check]
  have hcommands : commands =
      charactersOf (marker :: (checkedBytes f ++ [high])) ++ [.characterStartEdge false, .goodFrame low] := by
    simp only [commands, hbytes, List.dropLast_concat, List.getLastD_concat]
    rfl
  have hfilled := foldlM_extendFrame_frame hlen high
  rw [← hrx] at hfilled
  have hsecond : completedFrame low (.check (f.body.length + 2) (f.kind :: f.tag :: f.body) check (some high)) =
      some (⟨f.kind, f.tag, f.body⟩, true) := by
    rw [completedFrame_check, decide_eq_true (twoBytes_append check)]
  have hlength : commands.length = 2 + 2 * ((checkedBytes f ++ [high]).length + 1) := by
    rw [hcommands, List.length_append, length_charactersOf, Nat.add_comm]
    rfl
  rw [hlength, hcommands, List.append_assoc]
  exact (run_charactersOf hh hready hfilled 2 _).trans
    (run_lastCharacter hrx hready hgap hroom hopen hh hsecond rest)

end Sys2Proof.Machine
end

section
/-! The requests refused for their length or their kind, and the executor's own requests: IDENTIFY, STATUS, COUNTERS and RESET
(R165, R166, R169, R170, R173, R175 to R178, R194). -/

namespace Sys2Proof.Machine

-- One proof after another, not in parallel: the whole text compiles under a bound on memory.
set_option Elab.async false

/-! ### Lengths that suit their kinds (R166) -/

theorem lengthSuits_bodyless {kind : Byte} (hk : kind ∈ [0x01, 0x02, 0x04, 0x05, 0x06, 0x09, 0x0D]) (body : List Byte) :
    lengthSuits kind body = decide (body.length = 0) := by
  fin_cases hk <;> rfl

theorem lengthSuits_oneByte {kind : Byte} (hk : kind ∈ [0x0B, 0x0C, 0x10, 0x13, 0x15]) (body : List Byte) :
    lengthSuits kind body = decide (body.length = 1) := by
  fin_cases hk <;> rfl

theorem lengthSuits_twoBytes {kind : Byte} (hk : kind ∈ [0x0F, 0x11, 0x14]) (body : List Byte) :
    lengthSuits kind body = decide (body.length = 2) := by
  fin_cases hk <;> rfl

/-- A SCHED_EDIT body that suits its kind has its three fixed bytes and two for each pair (R23, R166). -/
theorem schedEdit_of_lengthSuits {body : List Byte} (h : lengthSuits 0x07 body = true) :
    ∃ start count length pairs, body = start :: count :: length :: pairs ∧ pairs.length = 2 * BitVec.toNat count := by
  have hlen : 3 ≤ body.length ∧ body.length = 3 + 2 * numAt body 1 := of_decide_eq_true h
  obtain ⟨hmin, hall⟩ := hlen
  match body with
  | start :: count :: length :: pairs =>
    simp only [numAt, byteAt, List.getD_cons_succ, List.getD_cons_zero, List.length_cons] at hall
    exact ⟨start, count, length, pairs, rfl, by omega⟩
  | [_, _] | [_] | [] => simp at hmin

/-- The length check passes only a body that suits its kind (R166). -/
theorem bodySuits_of_lengthSuits {kind : Byte} {body : List Byte} (h : lengthSuits kind body = true) :
    BodySuits kind body := by
  refine ⟨fun hk => ?bodyless, ?configure, ?schedEdit, ?schedRead, ?enroll, fun hk => ?oneByte, ?send, fun hk => ?twoBytes,
    ?fetch⟩
  case bodyless =>
    rw [lengthSuits_bodyless hk] at h
    exact List.length_eq_zero_iff.mp (of_decide_eq_true h)
  case oneByte =>
    rw [lengthSuits_oneByte hk] at h
    exact of_decide_eq_true h
  case twoBytes =>
    rw [lengthSuits_twoBytes hk] at h
    exact of_decide_eq_true h
  case schedEdit =>
    rintro rfl
    exact schedEdit_of_lengthSuits h
  all_goals
    rintro rfl
    exact of_decide_eq_true h

theorem lengthSuits_of_not_bodySuits {kind : Byte} {body : List Byte} (h : ¬ BodySuits kind body) :
    lengthSuits kind body = false := Bool.eq_false_iff.mpr (mt bodySuits_of_lengthSuits h)

/-! ### Requests that reach no owner (R165, R166) -/

/-- A length that does not suit the kind is answered BAD_LENGTH, whoever owns the request (R165, R166). -/
theorem request_badLength {kind tag : Byte} {body : List Byte} {rest : List Request} {s : State} (owner : State → State)
    (h : CanTake ⟨kind, tag, body⟩ rest s) (hb : ¬ BodySuits kind body) :
    request kind tag body owner s = .next (arbitrate (answered rest (replyKind kind) tag [0x02] s)) := by
  rw [request_canTake owner h, lengthSuits_of_not_bodySuits hb]
  rfl

theorem namesRequest_eq_false {kind : Byte} (h : kind = 0x00 ∨ 0x15 < kind) : namesRequest kind = false := by
  refine decide_eq_false fun ⟨hlo, hhi⟩ => ?_
  rcases h with rfl | h
  · exact absurd hlo (by decide)
  · exact absurd hhi (BitVec.not_le.mpr h)

/-- A kind that names no request is answered BAD_KIND, whatever its body (R165). -/
theorem exec_unknownRequestKind {kind tag : Byte} {body : List Byte} {rest : List Request} {s : State}
    (hk : namesRequest kind = false) (h : CanTake ⟨kind, tag, body⟩ rest s) :
    exec (.unknownRequestKind kind tag body) s =
      .next (arbitrate (reply kind tag .badKind [] { s with rex.inbox := rest })) := by
  have hheld := h.held
  obtain ⟨-, hreset, hinbox⟩ := h
  change execUnknownRequestKind kind tag body s = _
  simp [execUnknownRequestKind, hinbox, hreset, hk, hheld]

/-- A command of a known kind goes through the one check of its length to its owner (R165). -/
theorem exec_eq_request {c : Instr} {r : Request} (hr : requestOf c = some r)
    (hknown : ∀ k t b, c ≠ .unknownRequestKind k t b) (s : State) :
    ∃ owner, exec c s = request r.kind r.tag r.body owner s := by
  cases c with
  | unknownRequestKind kind tag body => exact absurd rfl (hknown kind tag body)
  | identify | status | configure | readConfig | counters | reset | start | stop | schedEdit | schedRead | schedCommit
  | enroll | retire | stationQuery | strangers | send | cancel | flush | msgStatus | fetch | grant =>
    cases hr
    exact ⟨_, rfl⟩
  | _ => cases hr

/-- The most significant bit of a known kind is clear, so that setting it adds it (R165). -/
theorem replyKind_eq_add {kind : Byte} (h : kind ≤ 0x15) : replyKind kind = kind + 0x80 := by
  have hclear : kind.getLsbD 7 = false := by
    refine Nat.testBit_lt_two_pow ?_
    bv_omega
  have hbit : kind &&& BitVec.twoPow 8 7 = 0 := by
    rw [BitVec.and_twoPow, hclear]
    rfl
  exact (BitVec.add_eq_or_of_and_eq_zero kind (BitVec.twoPow 8 7) hbit).symm

/-- Settles O4: a known kind through the length check before its owner, and the kinds that name no request. -/
theorem malformedRequestsAreRefused : Obligations.MalformedRequestsAreRefused := by
  refine ⟨fun c r rest s hr _ hmax hknown h hb => ?_, fun kind tag body rest s hk h => ?_⟩
  · obtain ⟨owner, htaken⟩ := exec_eq_request hr hknown s
    rw [htaken, request_badLength owner h hb, replyKind_eq_add hmax]
  · rw [exec_unknownRequestKind (namesRequest_eq_false hk) h]
    rfl

/-! ### IDENTIFY and STATUS (R169, R170) -/

/-- Settles O5: IDENTIFY suits its kind with no body, and its owner only replies. -/
theorem identifyAnswersItsFixedValues : Obligations.IdentifyAnswersItsFixedValues := by
  intro tag rest s h
  have htaken : exec (.identify tag []) s =
      .next (arbitrate (reply kindIdentify tag .ok identityItems { s with rex.inbox := rest })) :=
    request_suits (reply kindIdentify tag .ok identityItems) h rfl
  rw [htaken, reply_eq_answered]
  rfl

/-- The items of STATUS in the terms of the claims (R170). -/
theorem statusItems_eq (s : State) : statusItems s =
    [(match s.cye.state with | .stopped => 0 | .listening => 1 | .running => 2 | .halting => 3), s.cye.cycle,
      BitVec.ofNat 8 s.cye.streak,
      (match s.cye.cause with | .none => 0 | .echoBeacon => 1 | .echoData => 2 | .echoEmpty => 3), s.sbk.epoch,
      BitVec.ofNat 8 s.sbk.active.length, BitVec.ofNat 8 s.ntq.credits, BitVec.ofNat 8 s.mpl.free,
      BitVec.ofNat 8 s.mpl.down, BitVec.ofNat 8 s.mpl.up, BitVec.ofNat 8 s.ulr.inbox.length,
      BitVec.ofNat 8 s.rex.openCount] := by
  have hstate : engineStateCode s.cye.state =
      match s.cye.state with | .stopped => 0 | .listening => 1 | .running => 2 | .halting => 3 := by
    cases s.cye.state <;> rfl
  have hcause : faultCauseCode s.cye.cause =
      match s.cye.cause with | .none => 0 | .echoBeacon => 1 | .echoData => 2 | .echoEmpty => 3 := by
    cases s.cye.cause <;> rfl
  rw [statusItems, hstate, hcause]
  rfl

/-- Settles O6: taking the request reaches none of the items, and its owner only replies. -/
theorem statusAnswersTheItemsOfOneInstant : Obligations.StatusAnswersTheItemsOfOneInstant := by
  intro tag rest s h
  have htaken : exec (.status tag []) s =
      .next (arbitrate (reply kindStatus tag .ok (statusItems s) { s with rex.inbox := rest })) :=
    request_suits (fun t => reply kindStatus tag .ok (statusItems t) t) h rfl
  rw [htaken, reply_eq_answered, statusItems_eq]
  rfl

/-! ### COUNTERS (R173, R175, R176) -/

/-- A record written back as it stands leaves the state as it is (R38). -/
theorem setStation_of_station {a : Nat} {s : State} {st : Station} (h : station a s = some st) :
    setStation a (some st) s = s := by
  have ha := stationAddress_of_station h
  have hrecord : s.stt.records[a - 1]? = some (some st) := by
    rw [station, if_pos ha] at h
    exact Option.join_eq_some_iff.mp h
  obtain ⟨hlt, hget⟩ := Vector.getElem?_eq_some_iff.mp hrecord
  have hsame : s.stt.records.setIfInBounds (a - 1) (some st) = s.stt.records := by
    refine Vector.ext fun i hi => ?_
    rw [Vector.getElem_setIfInBounds hi]
    split
    · subst i
      exact hget.symm
    · rfl
  rw [setStation, if_pos ha, hsame]

section Counters
variable {tag sel flag : Byte} {s : State}

theorem exec_counters {rest : List Request} (h : CanTake ⟨0x14, tag, [sel, flag]⟩ rest s) :
    exec (.counters tag [sel, flag]) s =
      .next (arbitrate (takeCounters tag [sel, flag] { s with rex.inbox := rest })) :=
  request_suits (takeCounters tag [sel, flag]) h rfl

theorem takeCounters_badFlag (hf : ¬ flag ≤ 1) :
    takeCounters tag [sel, flag] s = reply kindCounters tag .badArgument [] s := by
  simp only [takeCounters, byteAt, List.getD_cons_succ, List.getD_cons_zero, flagOf_none hf]

theorem takeCounters_badSelector (hsel : 30 < sel) :
    takeCounters tag [sel, flag] s = reply kindCounters tag .badArgument [] s := by
  by_cases hf : flag ≤ 1
  · have hne : sel.toNat ≠ 0 := by bv_omega
    simp only [takeCounters, numAt, byteAt, List.getD_cons_succ, List.getD_cons_zero, flagOf_eq hf, hne,
      not_stationAddress_byte (.inr hsel), if_false, Bool.false_eq_true]
  · exact takeCounters_badFlag hf

/-- The global set is read as it stands, and cleared where the flag says so (R173). -/
theorem takeCounters_global (hf : flag ≤ 1) : takeCounters tag [0, flag] s =
    reply kindCounters tag .ok (0 :: counterBytes s.counters)
      { s with counters := if flag = 1 then Vector.replicate 39 0 else s.counters } := by
  by_cases hclear : flag = 1 <;>
    simp only [takeCounters, numAt, byteAt, List.getD_cons_succ, List.getD_cons_zero, flagOf_eq hf, hclear] <;> rfl

theorem takeCounters_notEnrolled (hf : flag ≤ 1) (hlo : 1 ≤ sel) (hhi : sel ≤ 30) (hst : station sel.toNat s = none) :
    takeCounters tag [sel, flag] s = reply kindCounters tag .notEnrolled [] s := by
  have hne : sel.toNat ≠ 0 := by bv_omega
  simp only [takeCounters, numAt, byteAt, List.getD_cons_succ, List.getD_cons_zero, flagOf_eq hf, hne,
    (stationAddress_byte sel).mpr ⟨hlo, hhi⟩, hst, if_false, if_true]

/-- A station's set is read as it stands, and cleared in its record where the flag says so (R173). -/
theorem takeCounters_station {st : Station} (hf : flag ≤ 1) (hst : station sel.toNat s = some st) :
    takeCounters tag [sel, flag] s = reply kindCounters tag .ok (sel :: counterBytes st.counters)
      (setStation sel.toNat
        (some { st with counters := if flag = 1 then Vector.replicate 31 0 else st.counters }) s) := by
  have hne : sel.toNat ≠ 0 := by
    obtain ⟨hlo, -⟩ := station_isSome_range hst
    omega
  simp only [takeCounters, numAt, byteAt, List.getD_cons_succ, List.getD_cons_zero, flagOf_eq hf, hne,
    stationAddress_of_station hst, hst, if_false, if_true, onStation_some hst]
  by_cases hclear : flag = 1
  · simp only [hclear, decide_true, if_true]
  · simp only [hclear, decide_false, if_false, Bool.false_eq_true, setStation_of_station hst]

end Counters

/-- Settles O8: the order of the two sets, and COUNTERS by its flag, its selector and the record. -/
theorem countersReadsAndClearsOneSet : Obligations.CountersReadsAndClearsOneSet := by
  refine ⟨by decide, by decide, fun tag sel flag rest s h => ?_⟩
  rw [exec_counters h]
  refine ⟨fun hbad => ?_, fun hf hsel => ?_, fun hf hlo hhi hst => ?_, fun st hf hlo hhi hst => ?_⟩
  · have htaken : takeCounters tag [sel, flag] { s with rex.inbox := rest } =
        reply kindCounters tag .badArgument [] { s with rex.inbox := rest } :=
      hbad.elim (fun hf => takeCounters_badFlag (BitVec.not_le.mpr hf)) takeCounters_badSelector
    rw [htaken]
    rfl
  · subst hsel
    rw [takeCounters_global hf]
    rfl
  · rw [takeCounters_notEnrolled (s := { s with rex.inbox := rest }) hf hlo hhi hst]
    rfl
  · rw [takeCounters_station (s := { s with rex.inbox := rest }) hf hst, setStation_inbox]
    rfl

/-! ### RESET (R177, R178) -/

theorem exec_reset {tag b : Byte} {rest : List Request} {s : State} (h : CanTake ⟨0x15, tag, [b]⟩ rest s) :
    exec (.reset tag [b]) s = .next (arbitrate (takeReset tag [b] { s with rex.inbox := rest })) :=
  request_suits (takeReset tag [b]) h rfl

theorem scopeOf_none {b : Byte} (h : b = 0 ∨ 3 < b) : scopeOf b = none := by
  have hne : ∀ k : Byte, 1 ≤ k → k ≤ 3 → b ≠ k := by
    rintro k hlo hhi rfl
    rcases h with rfl | h
    · exact absurd hlo (by decide)
    · exact absurd hhi (BitVec.not_le.mpr h)
  simp only [scopeOf, hne 1 (by decide) (by decide), hne 2 (by decide) (by decide), hne 3 (by decide) (by decide), if_false]

/-- Settles O9: RESET by each scope byte, and by one that names no scope. -/
theorem resetIsAnsweredFirst : Obligations.ResetIsAnsweredFirst := by
  intro tag b rest s h
  rw [exec_reset h]
  refine ⟨fun scope body hscope => ?_, fun hb => ?_⟩
  · rcases hscope with ⟨rfl, rfl, rfl⟩ | ⟨rfl, rfl, rfl⟩ | ⟨rfl, rfl, rfl⟩ <;> rfl
  · simp only [takeReset, byteAt, List.getD_cons_zero, scopeOf_none hb]
    rfl

end Sys2Proof.Machine
end

section
/-! The outbound side of the state as one value: the notice queue, the marker, the credits, the frame in progress and ATTN,
and what an offer, a reply, the arbiter's choice and the end of a frame do to them (R182 to R192). -/

namespace Sys2Proof.Machine

-- One proof after another, not in parallel: the whole text compiles under a bound on memory.
set_option Elab.async false

/-! ### What NoticeInv and AttnInv read -/

/-- The frame in progress stands at the head of the queue it came from; an OVERFLOW frame stands for a marker alone (R185,
R187, R189). -/
structure HeadsItsQueue (f : TxFrame) (q : Ntq) : Prop where
  reply : f.source = .reply → q.replies.head?.map Reply.frame = some f.frame
  notice : f.source = .notice → q.notices.head?.map noticeFrame = some f.frame
  overflow : f.source = .overflow → q.notices = [] ∧ q.marker.isSome

/-- Neither a notice nor the marker stands in the queue (R191). -/
def Ntq.isQuiet (q : Ntq) : Bool := q.notices.isEmpty && q.marker.isNone

/-- NoticeInv and AttnInv of a notice queue and an ATTN mode. -/
structure NtqOk (mode : AttnMode) (q : Ntq) : Prop where
  notices_le : q.notices.length ≤ 23
  marker_le : ∀ k, q.marker = some k → k ≤ 255
  credits_le : q.credits ≤ 255
  heads : ∀ f, q.tx = some f → HeadsItsQueue f q
  marker_zero : q.marker = some 0 → q.tx.map TxFrame.source = some .overflow
  level : mode = .level → q.pulse = none ∧ q.attn = !q.isQuiet
  pulse : mode = .pulse → q.attn = q.pulse.isSome

/-- The outbound side of a state in order. -/
def OutboundOk (s : State) : Prop := NtqOk s.rex.config.attnMode s.ntq

theorem outboundOk_iff (s : State) : OutboundOk s ↔ NoticeInv s ∧ AttnInv s := by
  refine ⟨fun h => ?_, fun ⟨⟨hnotices, hmarker, hcredits, hheads, hzero⟩, hlevel, hpulse⟩ => ?_⟩
  · exact ⟨⟨h.notices_le, h.marker_le, h.credits_le,
      fun f hf => ⟨(h.heads f hf).reply, (h.heads f hf).notice, (h.heads f hf).overflow⟩, h.marker_zero⟩, h.level,
      h.pulse⟩
  · refine ⟨hnotices, hmarker, hcredits, fun f hf => ?_, hzero, hlevel, hpulse⟩
    obtain ⟨hreply, hnotice, hoverflow⟩ := hheads f hf
    exact ⟨hreply, hnotice, hoverflow⟩

/-- What OutboundOk reads of the state. -/
def outbound (s : State) : AttnMode × Ntq := (s.rex.config.attnMode, s.ntq)

theorem OutboundOk.congr {s t : State} (h : OutboundOk s) (e : outbound t = outbound s) : OutboundOk t := by
  obtain ⟨hmode, hntq⟩ := Prod.ext_iff.mp e
  change NtqOk (outbound t).1 (outbound t).2
  rw [hmode, hntq]
  exact h

theorem Ntq.isQuiet_iff (q : Ntq) : q.isQuiet = true ↔ q.notices = [] ∧ q.marker = none := by simp [Ntq.isQuiet]

section Queue
variable {mode : AttnMode} {q : Ntq}

/-- In level mode ATTN is asserted while anything stands in the queue (R191). -/
theorem NtqOk.attn_of_not_quiet (h : NtqOk mode q) (hlevel : mode = .level) (hq : q.isQuiet = false) : q.attn = true := by
  rw [(h.level hlevel).2, hq]
  rfl

/-- In level mode ATTN suits any other queue in which something stands (R191). -/
theorem NtqOk.attn_suits (h : NtqOk mode q) (hlevel : mode = .level) (hq : q.isQuiet = false) {q' : Ntq}
    (hq' : q'.isQuiet = false) : q.attn = !q'.isQuiet := by
  rw [h.attn_of_not_quiet hlevel hq, hq']
  rfl

/-- ATTN and its pulse as an ATTN mode asks (R191, R192). -/
theorem NtqOk.withAttn (h : NtqOk mode q) {mode' : AttnMode} {attn : Bool} {pulse : Option Nat}
    (hlevel : mode' = .level → pulse = none ∧ attn = !q.isQuiet) (hpulse : mode' = .pulse → attn = pulse.isSome) :
    NtqOk mode' { q with attn := attn, pulse := pulse } :=
  { h with heads := fun f hf => { h.heads f hf with }, level := hlevel, pulse := hpulse }

/-! ### Offered notices (R183, R184, R191, R192) -/

/-- A notice that joins an empty queue asserts ATTN, with a pulse in pulse mode (R191, R192). -/
theorem NtqOk.offeredToEmpty {c : Settings} (h : NtqOk c.attnMode q) (hm : q.marker = none) (hn : q.notices = []) (n : Notice) :
    NtqOk c.attnMode { q with
      notices := [n], attn := true, pulse := if c.attnMode = .pulse then some c.pulseLength else q.pulse } := by
  refine { h with notices_le := by simp, heads := fun f hf => ?heads, level := fun hl => ?level, pulse := fun hp => ?pulse }
  case heads =>
    refine { h.heads f hf with notice := fun hs => ?_, overflow := fun hs => ?_ }
    · simpa [hn] using (h.heads f hf).notice hs
    · simpa [hm] using (h.heads f hf).overflow hs
  case level => exact ⟨by simpa [hl] using (h.level hl).1, rfl⟩
  case pulse => simp [hp]

/-- A notice that joins behind others leaves the head and ATTN as they are (R183, R191). -/
theorem NtqOk.offeredBehind (h : NtqOk mode q) (hn : q.notices ≠ []) (hl : q.notices.length < 23) (n : Notice) :
    NtqOk mode { q with notices := q.notices ++ [n] } := by
  have hquiet : q.isQuiet = false := by simp [Ntq.isQuiet, hn]
  refine { h with notices_le := by simpa using hl, heads := fun f hf => ?heads, level := fun hl => ?level }
  case heads =>
    refine { h.heads f hf with notice := fun hs => ?_, overflow := fun hs => absurd ((h.heads f hf).overflow hs).1 hn }
    simpa [List.head?_append_of_ne_nil _ hn] using (h.heads f hf).notice hs
  case level => exact ⟨(h.level hl).1, h.attn_suits hl hquiet (by simp [Ntq.isQuiet])⟩

/-- A dropped notice is counted in a marker that stands or stood over a full queue; ATTN stays (R184, R191). -/
theorem NtqOk.dropped (h : NtqOk mode q) (hq : q.isQuiet = false) {k : Nat} (hk : 1 ≤ k ∧ k ≤ 255) :
    NtqOk mode { q with marker := some k } := by
  obtain ⟨hpos, hmax⟩ := hk
  refine { h with marker_le := fun j hj => ?le, heads := fun f hf => ?heads, marker_zero := fun hz => ?zero,
                  level := fun hl => ⟨(h.level hl).1, h.attn_suits hl hq (by simp [Ntq.isQuiet])⟩ }
  case le =>
    cases hj
    exact hmax
  case heads => exact { h.heads f hf with overflow := fun hs => ⟨((h.heads f hf).overflow hs).1, rfl⟩ }
  case zero =>
    cases hz
    cases hpos

theorem NtqOk.offeredTo {c : Settings} (h : NtqOk c.attnMode q) (n : Notice) : NtqOk c.attnMode (offeredTo n c q) := by
  unfold Machine.offeredTo
  split
  · rename_i k hm
    exact h.dropped (by simp [Ntq.isQuiet, hm]) ⟨by omega, by omega⟩
  · rename_i hm
    split
    · rename_i hfull
      have hn : q.notices ≠ [] := by
        intro hn
        simp [hn] at hfull
      exact h.dropped (by simp [Ntq.isQuiet, hn]) (by decide)
    · rename_i hroom
      split
      · rename_i hn
        exact h.offeredToEmpty hm hn n
      · rename_i hn
        exact h.offeredBehind hn (Nat.lt_of_not_le hroom) n

/-! ### The reply queue (R187) -/

/-- A reply that joins the tail leaves the frame in progress at its queue's head. -/
theorem NtqOk.joined (h : NtqOk mode q) (r : Reply) : NtqOk mode { q with replies := q.replies ++ [r] } := by
  refine { h with heads := fun f hf => { h.heads f hf with reply := fun hs => ?_ } }
  have hhead := (h.heads f hf).reply hs
  have hne : q.replies ≠ [] := by
    intro hnil
    simp [hnil] at hhead
  simpa [List.head?_append_of_ne_nil _ hne] using hhead

/-- The refusal places and a pending start-up frame bind nothing here. -/
theorem NtqOk.besides (h : NtqOk mode q) (refusals : Nat) (startUp : Option Cause) :
    NtqOk mode { q with refusals := refusals, startUp := startUp } :=
  { h with heads := fun f hf => { h.heads f hf with } }

theorem NtqOk.credited (h : NtqOk mode q) {credits : Nat} (hle : credits ≤ 255) :
    NtqOk mode { q with credits := credits } :=
  { h with heads := fun f hf => { h.heads f hf with }, credits_le := hle }

/-! ### The end of a frame (R158, R185, R187, R189, R191) -/

/-- The marker's count is 0 only while its OVERFLOW frame is sent (R185). -/
theorem NtqOk.marker_ne_zero (h : NtqOk mode q) {f : TxFrame} (hf : q.tx = some f) (hs : f.source ≠ .overflow) :
    q.marker ≠ some 0 := by
  intro hz
  have hsource := h.marker_zero hz
  rw [hf] at hsource
  exact hs (Option.some.inj hsource)

/-- The transmitter falls idle while no marker stands at 0. -/
theorem NtqOk.idle (h : NtqOk mode q) (hz : q.marker ≠ some 0) : NtqOk mode { q with tx := none } :=
  { h with heads := nofun, marker_zero := fun hm => absurd hm hz }

/-- On an idle transmitter the reply queue binds nothing here. -/
theorem NtqOk.unsent (h : NtqOk mode q) (htx : q.tx = none) (replies : List Reply) :
    NtqOk mode { q with replies := replies } :=
  { h with heads := fun _ hf => by cases htx.symm.trans hf }

/-- Entries leave a queue that was not empty, on an idle transmitter; in level mode ATTN is released with the last one
(R191). -/
theorem NtqOk.entryLeft (h : NtqOk mode q) (hq : q.isQuiet = false) {notices : List Notice} {marker : Option Nat} {attn : Bool}
    (hnotices : notices.length ≤ 23) (hmarker : ∀ k, marker = some k → k ≤ 255) (hzero : marker ≠ some 0)
    (hattn : attn = if mode = .level ∧ notices = [] ∧ marker = none then false else q.attn) :
    NtqOk mode { q with notices := notices, marker := marker, tx := none, attn := attn } := by
  refine { h with notices_le := hnotices, marker_le := hmarker, heads := nofun,
                  marker_zero := fun hm => absurd hm hzero, level := fun hl => ⟨(h.level hl).1, ?level⟩,
                  pulse := fun hp => ?pulse }
  case level =>
    change attn = !(Ntq.isQuiet { q with notices := notices, marker := marker, tx := none, attn := attn })
    rw [hattn, h.attn_of_not_quiet hl hq]
    by_cases hempty : notices = [] ∧ marker = none
    · simp [Ntq.isQuiet, hl, hempty]
    · rw [if_neg (fun hall => hempty hall.2), eq_comm, Bool.not_eq_true', Bool.eq_false_iff]
      exact mt (Ntq.isQuiet_iff _).mp hempty
  case pulse =>
    change attn = _
    rw [hattn, if_neg (by simp [hp])]
    exact h.pulse hp

end Queue

/-! ### The arbiter's choice (R185, R188 to R190) -/

/-- The notice queue after a frame has been chosen: the start-up frame, the oldest reply, or against a credit the head notice or
the marker standing alone, which falls to 0 (R185, R188, R189). -/
inductive Chosen (q : Ntq) : Ntq → Prop where
  | startUp (c : Cause) :
    Chosen q { q with startUp := none, tx := some { frame := startUpFrame c, source := .startUp } }
  | reply {r : Reply} {rest : List Reply} (hr : q.replies = r :: rest) :
    Chosen q { q with tx := some { frame := r.frame, source := .reply } }
  | notice {n : Notice} {rest : List Notice} (hn : q.notices = n :: rest) :
    Chosen q { q with credits := q.credits - 1, tx := some { frame := noticeFrame n, source := .notice } }
  | overflow {k : Nat} (hn : q.notices = []) (hm : q.marker = some k) :
    Chosen q { q with credits := q.credits - 1, marker := some 0,
                      tx := some { frame := overflowFrame k, source := .overflow } }

/-- The arbiter either finds no choice to make, and then nothing is eligible, or starts a frame on an idle transmitter
(R188). -/
theorem arbitrate_chooses (s : State) :
    arbitrate s = s ∧ ArbiterInv s ∨ s.ntq.tx = none ∧ Chosen s.ntq (arbitrate s).ntq := by
  by_cases hfree : held s = false ∧ s.ntq.tx = none
  case neg =>
    refine .inl ⟨arbitrate_blocked ?_, fun hh htx => absurd ⟨hh, htx⟩ hfree⟩
    rw [← Bool.not_eq_false, ← not_and_or]
    exact fun h => hfree h.symm
  case pos =>
    obtain ⟨hh, htx⟩ := hfree
    cases hup : s.ntq.startUp with
    | some c =>
      rw [arbitrate_owesStartUp htx hh hup]
      exact .inr ⟨htx, .startUp c⟩
    | none =>
      cases hr : s.ntq.replies with
      | cons r rest =>
        rw [arbitrate_oldestReply htx hh hup hr]
        exact .inr ⟨htx, .reply hr⟩
      | nil =>
        by_cases hc : s.ntq.credits = 0
        · exact .inl ⟨arbitrate_noCredit htx hh hup hr hc, fun _ _ => ⟨hup, hr, .inl hc⟩⟩
        · cases hn : s.ntq.notices with
          | cons n rest =>
            rw [arbitrate_headNotice htx hh hup hr hc hn]
            exact .inr ⟨htx, .notice hn⟩
          | nil =>
            cases hm : s.ntq.marker with
            | some k =>
              rw [arbitrate_loneMarker htx hh hup hr hc hn hm]
              exact .inr ⟨htx, .overflow hn hm⟩
            | none =>
              exact .inl ⟨arbitrate_noNotice htx hh hup hr hn hm,
                fun _ _ => ⟨hup, hr, .inr (by simp [noticeQueueEmpty, hn, hm])⟩⟩

theorem Chosen.tx_isSome {q q' : Ntq} (h : Chosen q q') : q'.tx ≠ none := by cases h <;> simp

/-- After the arbiter's choice an idle transmitter means that no frame is eligible (R188). -/
theorem arbiterInv_arbitrate (s : State) : ArbiterInv (arbitrate s) := by
  rcases arbitrate_chooses s with ⟨hsame, hs⟩ | ⟨-, hc⟩
  · rw [hsame]
    exact hs
  · exact fun _ htx => absurd htx hc.tx_isSome

/-- A chosen frame stands at the head of its queue, and only the OVERFLOW frame takes the marker to 0 (R185, R189). -/
theorem NtqOk.chosen {mode : AttnMode} {q q' : Ntq} (h : NtqOk mode q) (htx : q.tx = none) (hc : Chosen q q') :
    NtqOk mode q' := by
  have hzero : q.marker ≠ some 0 := by
    intro hz
    have hsource := h.marker_zero hz
    rw [htx] at hsource
    cases hsource
  have hcredits : q.credits - 1 ≤ 255 := (Nat.sub_le _ _).trans h.credits_le
  cases hc with
  | startUp c =>
    exact { h with heads := fun f hf => by cases hf; exact ⟨nofun, nofun, nofun⟩, marker_zero := fun hz => absurd hz hzero }
  | reply hr =>
    exact { h with heads := fun f hf => by cases hf; exact ⟨fun _ => by simp [hr], nofun, nofun⟩,
                   marker_zero := fun hz => absurd hz hzero }
  | notice hn =>
    exact { h with heads := fun f hf => by cases hf; exact ⟨nofun, fun _ => by simp [hn], nofun⟩,
                   credits_le := hcredits, marker_zero := fun hz => absurd hz hzero }
  | overflow hn hm =>
    have hquiet : q.isQuiet = false := by simp [Ntq.isQuiet, hm]
    exact { h with heads := fun f hf => by cases hf; exact ⟨nofun, nofun, fun _ => ⟨hn, rfl⟩⟩,
                   credits_le := hcredits, marker_le := fun k hk => by cases hk; exact Nat.zero_le _,
                   marker_zero := fun _ => rfl,
                   level := fun hl => ⟨(h.level hl).1, h.attn_suits hl hquiet (by simp [Ntq.isQuiet])⟩ }

theorem OutboundOk.arbitrate {s : State} (h : OutboundOk s) : OutboundOk (arbitrate s) := by
  rcases arbitrate_chooses s with ⟨hsame, -⟩ | ⟨htx, hc⟩
  · rw [hsame]
    exact h
  · unfold OutboundOk
    rw [arbitrate_rex]
    exact NtqOk.chosen h htx hc

end Sys2Proof.Machine
end

section
/-! The outbound side of the state under every named operation of the model: each leaves it alone, offers notices or joins
replies (R14, R34, R36, R48 to R53, R64 to R71, R87 to R97, R109 to R123, R183, R187). -/

namespace Sys2Proof.Machine

-- One proof after another, not in parallel: the whole text compiles under a bound on memory.
set_option Elab.async false

section Operations
variable {s : State}

/-! ### Operations that leave the outbound side alone -/

theorem outboundOk_of_eq {t : State} (e : outbound t = outbound s) : OutboundOk t ↔ OutboundOk s :=
  ⟨fun h => h.congr e.symm, fun h => h.congr e⟩

@[simp] theorem outboundOk_countGlobal (c : GlobalCounter) : OutboundOk (countGlobal c s) ↔ OutboundOk s := Iff.rfl
@[simp] theorem outboundOk_onStations (f : Station → Station) : OutboundOk (onStations f s) ↔ OutboundOk s := Iff.rfl
@[simp] theorem outboundOk_returnDown : OutboundOk (returnDown s) ↔ OutboundOk s := Iff.rfl
@[simp] theorem outboundOk_lendUp : OutboundOk (lendUp s) ↔ OutboundOk s := Iff.rfl
@[simp] theorem outboundOk_setAdmission (r : AdmitResult) (e : Nat) : OutboundOk (setAdmission r e s) ↔ OutboundOk s :=
  Iff.rfl
@[simp] theorem outboundOk_removeStranger (a : Nat) : OutboundOk (removeStranger a s) ↔ OutboundOk s := Iff.rfl
@[simp] theorem outboundOk_handOver (seg : Segment) : OutboundOk (handOver seg s) ↔ OutboundOk s := Iff.rfl

/-- The free choice of an order is no part of the outbound side (log 5). -/
@[simp] theorem outboundOk_choices (n : Nat) : OutboundOk { s with choices := n } ↔ OutboundOk s := Iff.rfl

@[simp] theorem outboundOk_setStation (a : Nat) (r : Option Station) : OutboundOk (setStation a r s) ↔ OutboundOk s :=
  outboundOk_of_eq (by simp [outbound])

@[simp] theorem outboundOk_onStation (a : Nat) (f : Station → Station) : OutboundOk (onStation a f s) ↔ OutboundOk s :=
  outboundOk_of_eq (by simp [outbound])

@[simp] theorem outboundOk_countStation (a : Nat) (c : StationCounter) : OutboundOk (countStation a c s) ↔ OutboundOk s :=
  outboundOk_of_eq (by simp [outbound])

@[simp] theorem outboundOk_discardContext (a : Nat) : OutboundOk (discardContext a s) ↔ OutboundOk s :=
  outboundOk_of_eq (by simp [outbound])

@[simp] theorem outboundOk_countStationResult (d : Nat) (r : Result) :
    OutboundOk (countStationResult d r s) ↔ OutboundOk s :=
  outboundOk_of_eq (by simp [outbound])

theorem outbound_rewindUnscheduled (s : State) : outbound (rewindUnscheduled s) = outbound s := by
  have hrest := congrArg outbound (rewindUnscheduled_rest s s.stt s.dlv)
  exact hrest

/-- A swap acts on the banks and on in-flight records (R34, R36). -/
@[simp] theorem outboundOk_swap : OutboundOk (swap s) ↔ OutboundOk s :=
  outboundOk_of_eq (outbound_rewindUnscheduled _)

@[simp] theorem outboundOk_swapPending : OutboundOk (swapPending s) ↔ OutboundOk s :=
  outboundOk_of_eq (swapPending_field (f := outbound) (fun _ _ _ _ => rfl) s)

/-! ### Notices and replies (R183, R187) -/

@[simp] theorem OutboundOk.offer (h : OutboundOk s) (n : Notice) : OutboundOk (offer n s) := by
  have hntq : (Machine.offer n s).ntq = offeredTo n s.rex.config s.ntq := by
    rw [offer_eq]
    split <;> rfl
  unfold OutboundOk
  rw [offer_rex, hntq]
  exact NtqOk.offeredTo h n

theorem OutboundOk.joinReplies (h : OutboundOk s) (f : Frame) (p : Place) : OutboundOk (joinReplies f p s) :=
  NtqOk.joined h { frame := f, place := p }

/-- A reply after operations that leave the outbound side in order. -/
@[simp] theorem OutboundOk.reply (h : OutboundOk s) (kind tag : Byte) (st : Status) (items : List Byte) :
    OutboundOk (reply kind tag st items s) := h.joinReplies _ _

@[simp] theorem OutboundOk.joinEither (h : OutboundOk s) (a b : Option Frame) : OutboundOk (joinEither a b s) := by
  cases a with
  | none =>
    cases b with
    | none => exact h
    | some g => exact h.joinReplies g .request
  | some f =>
    cases b with
    | none => exact h.joinReplies f .request
    | some g =>
      have hchoice : OutboundOk { s with choices := s.choices + 1 } := h
      unfold Machine.joinEither
      dsimp only
      split
      · exact (hchoice.joinReplies g .request).joinReplies f .request
      · exact (hchoice.joinReplies f .request).joinReplies g .request

theorem OutboundOk.refuse (h : OutboundOk s) (f : Frame) (made dropped : Option GlobalCounter) :
    OutboundOk (refuse f made dropped s) := by
  have hjoined : OutboundOk (Machine.joinReplies f .refusal { s with ntq.refusals := s.ntq.refusals + 1 }) :=
    NtqOk.besides (h.joinReplies f .refusal) (s.ntq.refusals + 1) s.ntq.startUp
  unfold Machine.refuse
  split
  · cases made <;> exact hjoined
  · cases dropped <;> exact h

/-! ### Messages and queues (R43, R53, R92 to R97) -/

@[simp] theorem OutboundOk.endMessage (h : OutboundOk s) (k : Nat) (r : Result) (w : Reason) :
    OutboundOk (endMessage k r w s) := by
  unfold Machine.endMessage
  split
  · exact h
  · rename_i m _
    refine OutboundOk.offer ?_ _
    simp only [outboundOk_countStationResult, outboundOk_countGlobal, outboundOk_returnDown]
    exact h.congr (show outbound (setQueue m.dest ((queueOf m.dest s).erase k) s) = outbound s by simp [outbound])

@[simp] theorem OutboundOk.endMessages (h : OutboundOk s) (ks : List Nat) (r : Result) (w : Reason) :
    OutboundOk (endMessages ks r w s) := foldl_keeps (fun _ k hu => hu.endMessage k r w) ks h

@[simp] theorem OutboundOk.endQueue (h : OutboundOk s) (queue : List Nat) (w : Reason) (behind : Bool) :
    OutboundOk (endQueue queue w behind s) := by
  unfold Machine.endQueue
  split
  · exact h
  · dsimp only
    split
    · exact (h.endMessage _ _ _).endMessages _ _ _
    · exact h.endMessage _ _ _

@[simp] theorem OutboundOk.takeAnswer (h : OutboundOk s) (a : Nat) (ans : Option Answer) :
    OutboundOk (takeAnswer a ans s) := by
  unfold Machine.takeAnswer judgeAcked judgeBusy judgeUnanswered onInFlight
  (repeat' split) <;> simp [h]

/-- An accepted SEND (R82). -/
@[simp] theorem outboundOk_acceptSend (body : List Byte) : OutboundOk (acceptSend body s).1 ↔ OutboundOk s :=
  outboundOk_of_eq (by simp [outbound, acceptSend])

/-! ### Slots and the beacon (R4, R6, R87, R90) -/

theorem OutboundOk.broadcastDownSlot (h : OutboundOk s) : OutboundOk (broadcastDownSlot s) := by
  simp only [Machine.broadcastDownSlot]
  split
  · exact h
  · split
    · exact h
    · rename_i r _ _ m _
      have hsent : OutboundOk { countGlobal .broadcastSends
          (handOver (broadcastSegment m r.index (r.seqSent.getD s.dlv.next) s)
            { s with dlv.next := if r.seqSent.isNone then s.dlv.next + 1 else s.dlv.next }) with
          dlv.inFlight := some (afterBroadcastSend s.rex.config.repeats (r.seqSent.getD s.dlv.next) r) } := h
      split
      · exact hsent.endMessage _ _ _
      · exact hsent

theorem OutboundOk.stationDownSlot (h : OutboundOk s) (a : Nat) : OutboundOk (stationDownSlot a s) := by
  unfold Machine.stationDownSlot sendData
  (repeat' split) <;> simp only [outboundOk_handOver, outboundOk_onStation] <;> exact h

theorem OutboundOk.startSlot (h : OutboundOk s) : OutboundOk (startSlot s) := by
  have hslot : OutboundOk { s with cye.slot := s.cye.slot + 1 } := h
  simp only [Machine.startSlot]
  split
  · exact h
  · unfold downSlot
    split
    · exact hslot.broadcastDownSlot
    · exact hslot.stationDownSlot _
  · exact h
  · exact h

@[simp] theorem outboundOk_beginCycle (cycle : Byte) : OutboundOk (beginCycle cycle s) ↔ OutboundOk s := Iff.rfl

/-! ### Presence (R48 to R53) -/

@[simp] theorem OutboundOk.lose (h : OutboundOk s) (a : Nat) (st : Station) : OutboundOk (lose a st s) := by
  unfold Machine.lose
  split <;> simp [h]

theorem OutboundOk.evaluate (h : OutboundOk s) (b : Bank) (a : Nat) : OutboundOk (evaluate b a s) := by
  simp only [Machine.evaluate, evaluateHeard, evaluateMissed]
  (repeat' split) <;> simp [h]

theorem OutboundOk.evaluatePresence (h : OutboundOk s) : OutboundOk (evaluatePresence s) := by
  rw [Machine.evaluatePresence, clearHeard, outboundOk_onStations]
  exact foldl_keeps (fun _ a hu => hu.evaluate _ a) _ h

/-! ### The judgement of a receive part (R64 to R71, R109 to R123) -/

@[simp] theorem OutboundOk.addStranger (h : OutboundOk s) (a : Nat) (cls : Byte) (why : StrangerReason) :
    OutboundOk (addStranger a cls why s) := by
  unfold Machine.addStranger
  split
  · exact h
  · refine OutboundOk.offer ?_ _
    exact h

@[simp] theorem OutboundOk.acceptJoin (h : OutboundOk s) (a : Nat) (cls : Byte) (st : Station) :
    OutboundOk (acceptJoin a cls st s) := by
  unfold Machine.acceptJoin
  split <;> simp [h]

theorem OutboundOk.resolveAdmit (h : OutboundOk s) (cls : RxClass) : OutboundOk (resolveAdmit cls s) := by
  unfold Machine.resolveAdmit resolveJoin
  (repeat' split) <;> simp [h]

/-- A message that completes offers UPLINK_READY into an empty inbox (R123, R126). -/
@[simp] theorem OutboundOk.complete (h : OutboundOk s) (a : Nat) (bytes : List Byte) : OutboundOk (complete a bytes s) := by
  have hcounted : ∀ inbox arrival, OutboundOk (countGlobal .messagesCompleted (countStation a .messagesCompleted
      { s with ulr.inbox := inbox, ulr.arrival := arrival })) := fun _ _ => (outboundOk_countStation _ _).mpr h
  unfold Machine.complete
  dsimp only
  split
  · exact (hcounted _ _).offer _
  · exact hcounted _ _

@[simp] theorem OutboundOk.acceptSegment (h : OutboundOk s) (a : Nat) (st : Station) (seg : Segment) :
    OutboundOk (acceptSegment a st seg s) := by
  unfold Machine.acceptSegment
  (repeat' split) <;> simp [h]

@[simp] theorem OutboundOk.takeData (h : OutboundOk s) (a : Nat) (seg : Segment) : OutboundOk (takeData a seg s) := by
  simp only [Machine.takeData, takeInSequence, answerBusy]
  (repeat' split) <;> simp [h]

/-- The two halves of a judgement leave the outbound side in order, whichever comes first (R113; log 5). -/
@[simp] theorem OutboundOk.judgeCurrent (h : OutboundOk s) (a : Nat) (st : Station) (seg : Segment) :
    OutboundOk (judgeCurrent a st seg s) := by
  simp only [Machine.judgeCurrent]
  (repeat' split) <;> simp [h]

theorem OutboundOk.judgeUpSlot (h : OutboundOk s) (a : Nat) (cls : RxClass) : OutboundOk (judgeUpSlot a cls s) := by
  unfold Machine.judgeUpSlot judgeGood
  (repeat' split) <;> simp [h]

theorem outboundOk_settle (slot : RxSlot) (r : Reception) : OutboundOk (settle slot r s) ↔ OutboundOk s := by
  simp only [settle]
  split <;> exact Iff.rfl

theorem OutboundOk.takeReport {slot : RxSlot} {edges : List Edge} {upTo : Nat} {judge : RxClass → State → State} {u : State}
    (h : OutboundOk s) (hj : ∀ cls v, OutboundOk v → OutboundOk (judge cls v))
    (e : takeReport slot edges upTo judge s = some u) : OutboundOk u := by
  rcases takeReport_cases slot edges upTo judge s with hn | ⟨phase, -, -, ⟨r, -, hr⟩ | ⟨-, hr⟩⟩
  · cases hn.symm.trans e
  · cases hr.symm.trans e
    exact hj r.cls _ ((outboundOk_settle slot r).mpr h)
  · cases hr.symm.trans e
    exact h

/-! ### The boundaries of the engine (R7 to R12, R14) -/

theorem OutboundOk.endCycle (h : OutboundOk s) : OutboundOk (endCycle s) := by
  rw [Machine.endCycle, outboundOk_beginCycle]
  exact (outboundOk_swapPending.mpr h.evaluatePresence).joinEither _ _

theorem OutboundOk.completeStop (h : OutboundOk s) : OutboundOk (completeStop s) := by
  have hleft : OutboundOk (leaveRun { s with cye.state := .stopped, cye.slot := 0, cye.stop := none, lif.line := .idle }) := h
  exact (outboundOk_swapPending.mpr hleft).joinEither _ _

theorem OutboundOk.beginRun (h : OutboundOk s) : OutboundOk (beginRun s) := by
  have hrunning : OutboundOk { s with cye.state := .running, cye.deadline := none, cye.start := none } := h
  rw [Machine.beginRun, outboundOk_beginCycle]
  exact (outboundOk_swapPending.mpr hrunning).joinEither _ _

theorem OutboundOk.abortSegment (h : OutboundOk s) (seg : Segment) : OutboundOk (abortSegment seg s) := by
  by_cases hstreak : s.cye.streak + 1 = s.rex.config.faultStreak
  · rw [abortSegment_fault seg hstreak]
    refine OutboundOk.completeStop (OutboundOk.offer ?_ _)
    exact h
  · rw [abortSegment_below seg hstreak]
    exact h

end Operations

end Sys2Proof.Machine
end

section
/-! The outbound side in order along every step: the end of a frame, ATTN's mode, credits and resets, every command, and GRANT
(R158, R177, R182, R184 to R192). -/

namespace Sys2Proof.Machine

-- One proof after another, not in parallel: the whole text compiles under a bound on memory.
set_option Elab.async false

/-! ### GRANT (R186) -/

section Grant
variable {tag n : Byte} {s : State}

theorem exec_grant {rest : List Request} (h : CanTake ⟨0x13, tag, [n]⟩ rest s) :
    exec (.grant tag [n]) s = .next (arbitrate (takeGrant tag [n] { s with rex.inbox := rest })) :=
  request_suits (takeGrant tag [n]) h rfl

theorem takeGrant_zero : takeGrant tag [0] s = reply kindGrant tag .badArgument [] s := rfl

/-- A grant adds its credits up to 255 and answers the count (R186). -/
theorem takeGrant_some (hn : n ≠ 0) : takeGrant tag [n] s =
    reply kindGrant tag .ok [BitVec.ofNat 8 (min (s.ntq.credits + n.toNat) 255)]
      { s with ntq.credits := min (s.ntq.credits + n.toNat) 255 } := by
  have hne : numAt [n] 0 ≠ 0 := fun hz => hn (BitVec.eq_of_toNat_eq hz)
  rw [takeGrant, if_neg hne]
  rfl

end Grant

/-- Settles O47: a grant of none is refused, and any other adds its credits and answers the count. -/
theorem grantAddsCredits : Obligations.GrantAddsCredits := by
  intro tag n rest s h
  rw [exec_grant h]
  refine ⟨fun hn => ?_, fun hn => ?_⟩
  · subst hn
    rw [takeGrant_zero]
    rfl
  · rw [takeGrant_some hn]
    rfl

/-! ### The end of a frame (R158, R185, R187, R189, R191) -/

section Commands
variable {s t : State}

theorem OutboundOk.replySent (h : OutboundOk s) (htx : s.ntq.tx = none) : OutboundOk (replySent s) := by
  cases hr : s.ntq.replies with
  | nil =>
    rw [Machine.replySent, hr]
    exact h
  | cons r rest =>
    have hrest := NtqOk.unsent h htx rest
    obtain ⟨hrequest, hrefusal, hreset⟩ := replySent_cons hr
    cases hp : r.place with
    | request =>
      rw [hrequest hp]
      exact hrest
    | refusal =>
      rw [hrefusal hp]
      exact NtqOk.besides hrest (s.ntq.refusals - 1) s.ntq.startUp
    | reset =>
      rw [hreset hp]
      exact hrest

theorem OutboundOk.noticeSent (h : OutboundOk s) {f : TxFrame} (hf : s.ntq.tx = some f) (hs : f.source = .notice) :
    OutboundOk (noticeSent { s with ntq.tx := none }) := by
  have hhead := (NtqOk.heads h f hf).notice hs
  have hne : s.ntq.notices ≠ [] := by
    intro hnil
    simp [hnil] at hhead
  have hquiet : s.ntq.isQuiet = false := by simp [Ntq.isQuiet, hne]
  have hlen : s.ntq.notices.tail.length ≤ 23 := by
    rw [List.length_tail]
    exact (Nat.sub_le _ _).trans (NtqOk.notices_le h)
  have hleft := NtqOk.entryLeft h hquiet hlen (NtqOk.marker_le h) (NtqOk.marker_ne_zero h hf (by rw [hs]; decide)) rfl
  rw [Machine.noticeSent, attnOnLeave_eq]
  exact hleft

theorem OutboundOk.overflowSent (h : OutboundOk s) {f : TxFrame} (hf : s.ntq.tx = some f) (hs : f.source = .overflow) :
    OutboundOk (overflowSent { s with ntq.tx := none }) := by
  obtain ⟨-, hmarker⟩ := (NtqOk.heads h f hf).overflow hs
  have hquiet : s.ntq.isQuiet = false := by simp [Ntq.isQuiet, hmarker]
  have hle : ∀ k, (if s.ntq.marker = some 0 then none else s.ntq.marker) = some k → k ≤ 255 := by
    intro k hk
    split at hk
    · cases hk
    · exact NtqOk.marker_le h k hk
  have hzero : (if s.ntq.marker = some 0 then none else s.ntq.marker) ≠ some 0 := by
    split
    · exact nofun
    · assumption
  have hleft := NtqOk.entryLeft h hquiet (NtqOk.notices_le h) hle hzero rfl
  rw [Machine.overflowSent, attnOnLeave_eq]
  exact hleft

/-- The frame in progress has been sent whole, by the queue it came from (R158). -/
theorem OutboundOk.frameSent (h : OutboundOk s) {f : TxFrame} (hf : s.ntq.tx = some f) :
    OutboundOk (frameSent f.source { s with ntq.tx := none }) := by
  have hidle : f.source ≠ .overflow → OutboundOk { s with ntq.tx := none } := fun hs =>
    NtqOk.idle h (NtqOk.marker_ne_zero h hf hs)
  cases hs : f.source with
  | startUp => exact hidle (by rw [hs]; decide)
  | reply => exact (hidle (by rw [hs]; decide)).replySent rfl
  | notice => exact h.noticeSent hf hs
  | overflow => exact h.overflowSent hf hs

/-! ### ATTN's mode, its pulse and credits (R171, R186, R192) -/

/-- A pulse ends in pulse mode alone, and ATTN with it (R192). -/
theorem OutboundOk.pulseEnds (h : OutboundOk s) (hp : s.ntq.pulse.isSome) :
    OutboundOk { s with ntq.pulse := none, ntq.attn := false } := by
  have hmode : s.rex.config.attnMode ≠ .level := by
    intro hl
    rw [(NtqOk.level h hl).1] at hp
    cases hp
  exact NtqOk.withAttn h (fun hl => absurd hl hmode) (fun _ => rfl)

/-- A change of mode brings ATTN to what the new mode asks of it (R192). -/
theorem outboundOk_changeAttnMode {old new : AttnMode} (h : NtqOk old s.ntq) (hnew : s.rex.config.attnMode = new) :
    OutboundOk (changeAttnMode old new s) := by
  have hrex : (changeAttnMode old new s).rex = s.rex := by cases old <;> cases new <;> rfl
  rw [OutboundOk, hrex, hnew]
  cases old with
  | level =>
    cases new with
    | level => exact h
    | pulse =>
      obtain ⟨hpulse, -⟩ := h.level rfl
      exact h.withAttn nofun (fun _ => by rw [hpulse]; rfl)
  | pulse =>
    cases new with
    | level => exact h.withAttn (fun _ => ⟨rfl, rfl⟩) nofun
    | pulse => exact h

theorem OutboundOk.applySettings (h : OutboundOk s) (c : Settings) : OutboundOk (applySettings c s) :=
  outboundOk_changeAttnMode (s := onStations (limitCounts c) { s with rex.config := c }) h rfl

theorem OutboundOk.takeConfigure (h : OutboundOk s) (tag : Byte) (body : List Byte) :
    OutboundOk (takeConfigure tag body s) := by
  unfold Machine.takeConfigure
  split
  · split
    · exact (h.applySettings _).reply _ _ _ _
    · exact h.reply _ _ _ _
  · exact h.reply _ _ _ _

theorem OutboundOk.takeGrant (h : OutboundOk s) (tag : Byte) (body : List Byte) : OutboundOk (takeGrant tag body s) := by
  simp only [Machine.takeGrant]
  split
  · exact h.reply _ _ _ _
  · refine OutboundOk.reply ?_ _ _ _ _
    exact NtqOk.credited h (Nat.min_le_right _ _)

/-! ### Requests (R9, R11, R26, R40, R43, R81, R98, R100, R173) -/

theorem OutboundOk.takeCounters (h : OutboundOk s) (tag : Byte) (body : List Byte) :
    OutboundOk (takeCounters tag body s) := by
  have hcleared : OutboundOk { s with counters := Vector.replicate 39 0 } := h
  simp only [Machine.takeCounters]
  (repeat' split) <;> simp [h, hcleared]

theorem OutboundOk.takeSchedCommit (h : OutboundOk s) (tag : Byte) : OutboundOk (takeSchedCommit tag s) := by
  have hdeferred : OutboundOk { s with sbk.commit := some { tag := tag, forgotten := false } } := h
  unfold Machine.takeSchedCommit
  (repeat' split) <;> simp [h, hdeferred]

theorem OutboundOk.takeEnroll (h : OutboundOk s) (tag : Byte) (body : List Byte) : OutboundOk (takeEnroll tag body s) := by
  simp only [Machine.takeEnroll]
  (repeat' split) <;> simp [h]

theorem OutboundOk.takeRetire (h : OutboundOk s) (tag : Byte) (body : List Byte) : OutboundOk (takeRetire tag body s) := by
  simp only [Machine.takeRetire]
  (repeat' split) <;> simp [h]

theorem OutboundOk.takeSend (h : OutboundOk s) (tag : Byte) (body : List Byte) : OutboundOk (takeSend tag body s) := by
  unfold Machine.takeSend
  split <;> simp [h]

theorem OutboundOk.takeCancel (h : OutboundOk s) (tag : Byte) (body : List Byte) : OutboundOk (takeCancel tag body s) := by
  simp only [Machine.takeCancel]
  (repeat' split) <;> simp [h]

theorem OutboundOk.takeFlush (h : OutboundOk s) (tag : Byte) (body : List Byte) : OutboundOk (takeFlush tag body s) := by
  simp only [Machine.takeFlush]
  (repeat' split) <;> simp [h]

theorem OutboundOk.takeStop (h : OutboundOk s) (tag : Byte) : OutboundOk (takeStop tag s) := by
  have hended : OutboundOk (endListening s) := h
  have hhalting : OutboundOk { s with cye.state := .halting, cye.stop := some { tag := tag, forgotten := false } } := h
  unfold Machine.takeStop
  split <;> simp [h, hended, hhalting]

theorem OutboundOk.takeReset (h : OutboundOk s) (tag : Byte) (body : List Byte) : OutboundOk (takeReset tag body s) := by
  unfold Machine.takeReset
  split
  · exact h.reply _ _ _ _
  · refine OutboundOk.joinReplies ?_ _ _
    exact h

theorem OutboundOk.acceptFrame (h : OutboundOk s) (r : Request) : OutboundOk (acceptFrame r s) := by
  unfold Machine.acceptFrame
  split
  · exact h
  · exact h.refuse _ _ _

/-! ### Resets (R16 to R19) -/

/-- An empty notice queue with the transmitter idle and ATTN released suits both modes (R182). -/
theorem ntqOk_reset (mode : AttnMode) (startUp : Option Cause) : NtqOk mode (Ntq.reset startUp) where
  notices_le := Nat.zero_le _
  marker_le := nofun
  credits_le := Nat.zero_le _
  heads := nofun
  marker_zero := nofun
  level _ := ⟨rfl, rfl⟩
  pulse _ := rfl

theorem outboundOk_resetBlocks (hlk : Hlk) (startUp : Option Cause) (low : Bool) (s : State) :
    OutboundOk (resetBlocks hlk startUp low s) := ntqOk_reset _ startUp

/-- A BUS reset owes the start-up frame and the ABANDONED replies, and leaves the notices as they were (R18, R178, R193). -/
theorem OutboundOk.busResetBlocks (h : OutboundOk s) : OutboundOk (busResetBlocks s) :=
  NtqOk.besides h s.ntq.refusals (some .bus)

/-! ### The outbound side along every command -/

theorem outboundOk_perform {change : Option State} (h : OutboundOk s) (hu : ∀ u, change = some u → OutboundOk u)
    (e : perform change s = .next t) : OutboundOk t :=
  perform_keeps (fun _ hu => hu.arbitrate) h hu e

theorem outboundOk_performIf {p : Prop} [Decidable p] {v : State} (h : OutboundOk s) (hv : p → OutboundOk v)
    (e : perform (if p then some v else none) s = .next t) : OutboundOk t := by
  refine outboundOk_perform h (fun u hu => ?_) e
  split at hu <;> cases hu
  rename_i hp
  exact hv hp

theorem outboundOk_request {kind tag : Byte} {body : List Byte} {owner : State → State} (h : OutboundOk s)
    (ho : ∀ u, OutboundOk u → OutboundOk (owner u)) (e : request kind tag body owner s = .next t) : OutboundOk t := by
  have htaken : ∀ rest, OutboundOk { s with rex.inbox := rest } := fun _ => h
  rcases request_cases e with rfl | ⟨rest, -, rfl | rfl⟩
  · exact h
  · exact (ho _ (htaken rest)).arbitrate
  · exact ((htaken rest).reply _ _ _ _).arbitrate

theorem outboundOk_takeEffect {scope : Scope} {effect : State → State} (h : OutboundOk s) (hu : OutboundOk (effect s))
    (e : takeEffect scope effect s = .next t) : OutboundOk t :=
  takeEffect_keeps (fun _ hu => hu.arbitrate) h (fun _ => hu) e

theorem outboundOk_exec {c : Instr} (h : OutboundOk s) (e : exec c s = .next t) : OutboundOk t := by
  cases c with
  | powerOn | pinReset =>
    cases e
    exact (outboundOk_resetBlocks ..).arbitrate
  | resetnLow n =>
    change execResetnLow s n = .next t at e
    unfold execResetnLow at e
    split at e <;> cases e
    · exact outboundOk_resetBlocks ..
    · exact h
  | identify | status | readConfig | strangers =>
    refine outboundOk_request h (fun u hu => ?_) e
    exact hu.reply _ _ _ _
  | configure tag body => exact outboundOk_request h (fun u hu => hu.takeConfigure tag body) e
  | counters tag body => exact outboundOk_request h (fun u hu => hu.takeCounters tag body) e
  | reset tag body => exact outboundOk_request h (fun u hu => hu.takeReset tag body) e
  | unknownRequestKind kind tag body =>
    refine outboundOk_perform h (fun u hu => ?_) e
    split at hu
    · split at hu <;> cases hu
      refine OutboundOk.reply ?_ _ _ _ _
      exact h
    · cases hu
  | start tag body =>
    refine outboundOk_request h (fun u hu => ?_) e
    unfold takeStart
    split
    · exact hu
    all_goals exact hu.reply _ _ _ _
  | stop tag body => exact outboundOk_request h (fun u hu => hu.takeStop tag) e
  | schedEdit tag body =>
    refine outboundOk_request h (fun u hu => ?_) e
    simp only [takeSchedEdit]
    (repeat' split) <;> exact hu.reply _ _ _ _
  | schedRead tag body =>
    refine outboundOk_request h (fun u hu => ?_) e
    simp only [takeSchedRead]
    split <;> exact hu.reply _ _ _ _
  | schedCommit tag body => exact outboundOk_request h (fun u hu => hu.takeSchedCommit tag) e
  | enroll tag body => exact outboundOk_request h (fun u hu => hu.takeEnroll tag body) e
  | retire tag body => exact outboundOk_request h (fun u hu => hu.takeRetire tag body) e
  | stationQuery tag body =>
    refine outboundOk_request h (fun u hu => ?_) e
    simp only [takeStationQuery]
    (repeat' split) <;> exact hu.reply _ _ _ _
  | send tag body => exact outboundOk_request h (fun u hu => hu.takeSend tag body) e
  | cancel tag body => exact outboundOk_request h (fun u hu => hu.takeCancel tag body) e
  | flush tag body => exact outboundOk_request h (fun u hu => hu.takeFlush tag body) e
  | msgStatus tag body =>
    refine outboundOk_request h (fun u hu => ?_) e
    unfold takeMsgStatus
    split <;> exact hu.reply _ _ _ _
  | fetch tag body =>
    refine outboundOk_request h (fun u hu => ?_) e
    simp only [takeFetch]
    (repeat' split) <;> exact hu.reply _ _ _ _
  | grant tag body => exact outboundOk_request h (fun u hu => hu.takeGrant tag body) e
  | goodFrame b =>
    refine outboundOk_perform h (fun u hu => ?_) e
    split at hu <;> cases hu
    refine OutboundOk.acceptFrame ?_ _
    exact h
  | checkError b =>
    refine outboundOk_perform h (fun u hu => ?_) e
    split at hu <;> cases hu
    refine OutboundOk.refuse ?_ _ _ _
    exact h
  | frameSent =>
    refine outboundOk_perform h (fun u hu => ?_) e
    obtain ⟨f, hf, rfl⟩ := Option.map_eq_some_iff.mp hu
    exact h.frameSent hf
  | attnPulseExpiry => exact outboundOk_performIf h (fun hp => h.pulseEnds hp) e
  | lengthError | huntByteDiscarded | gapTimeout | characterError | breakDetected | characterStartEdge | rxdReturnsHigh =>
    refine outboundOk_performIf h (fun _ => ?_) e
    exact h
  | frameByteTaken b =>
    refine outboundOk_perform h (fun u hu => ?_) e
    split at hu
    · obtain ⟨rx, -, rfl⟩ := Option.map_eq_some_iff.mp hu
      exact h
    · cases hu
  | fullReset => exact outboundOk_takeEffect h (outboundOk_resetBlocks ..) e
  | busReset =>
    change execBusReset s = .next t at e
    refine outboundOk_takeEffect h ?_ e
    exact h.busResetBlocks.joinEither _ _
  | linkReset =>
    change execLinkReset s = .next t at e
    refine outboundOk_takeEffect h ?_ e
    exact ntqOk_reset _ _
  | listeningExpiry => exact outboundOk_performIf h (fun _ => h.beginRun) e
  | carrier =>
    refine outboundOk_performIf h (fun _ => OutboundOk.joinEither ?_ _ _) e
    exact h
  | slotStart => exact outboundOk_performIf h (fun _ => h.startSlot) e
  | transmissionCompleted =>
    refine outboundOk_perform h (fun u hu => ?_) e
    split at hu <;> cases hu
    exact h
  | echoMismatch cell second level =>
    refine outboundOk_perform h (fun u hu => ?_) e
    split at hu
    · split at hu <;> cases hu
      exact h.abortSegment _
    all_goals cases hu
  | cycleEnd => exact outboundOk_performIf h (fun _ => h.endCycle) e
  | stopCompletion => exact outboundOk_performIf h (fun _ => h.completeStop) e
  | upSlotReport edges upTo =>
    exact outboundOk_perform h (fun u hu => h.takeReport (fun cls v hv => hv.judgeUpSlot _ cls) hu) e
  | admitSlotReport edges upTo =>
    exact outboundOk_perform h (fun u hu => h.takeReport (fun cls v hv => hv.resolveAdmit cls) hu) e

/-! ### The arbiter along every command (R188) -/

/-- How a command ends: nothing has happened, the arbiter has made its choice, or RESETn is held low. -/
def EndsWithChoice (s t : State) : Prop := t = s ∨ (∃ u, t = arbitrate u) ∨ t.resetLow = true

theorem endsWithChoice_perform {change : Option State} (e : perform change s = .next t) : EndsWithChoice s t := by
  rcases perform_next change s with h | ⟨-, u, -, h⟩
  · cases h.symm.trans e
    exact .inl rfl
  · cases h.symm.trans e
    exact .inr (.inl ⟨u, rfl⟩)

theorem endsWithChoice_takeEffect {scope : Scope} {effect : State → State} (e : takeEffect scope effect s = .next t) :
    EndsWithChoice s t := by
  unfold takeEffect at e
  split at e <;> cases e
  · exact .inr (.inl ⟨effect s, rfl⟩)
  · exact .inl rfl

theorem endsWithChoice_exec {c : Instr} (e : exec c s = .next t) : EndsWithChoice s t := by
  cases c with
  | powerOn | pinReset =>
    cases e
    exact .inr (.inl ⟨_, rfl⟩)
  | resetnLow n =>
    change execResetnLow s n = .next t at e
    unfold execResetnLow at e
    split at e <;> cases e
    · exact .inr (.inr rfl)
    · exact .inl rfl
  | fullReset => exact endsWithChoice_takeEffect e
  | busReset =>
    change execBusReset s = .next t at e
    exact endsWithChoice_takeEffect e
  | linkReset =>
    change execLinkReset s = .next t at e
    exact endsWithChoice_takeEffect e
  | _ => exact endsWithChoice_perform e

theorem ArbiterInv.exec {c : Instr} (h : ArbiterInv s) (e : exec c s = .next t) : ArbiterInv t := by
  rcases endsWithChoice_exec e with rfl | ⟨u, rfl⟩ | hlow
  · exact h
  · exact arbiterInv_arbitrate u
  · intro hh
    rw [held, hlow] at hh
    cases hh

end Commands

/-- Settles O56: every operation leaves the outbound side alone, offers notices, joins replies or ends a frame, and every
command that happens ends with the arbiter's choice. -/
theorem stepsKeepTheOutboundSide : Obligations.StepsKeepTheOutboundSide := by
  intro s t hnotice harbiter hattn e
  have h : OutboundOk s := (outboundOk_iff s).mpr ⟨hnotice, hattn⟩
  have hnext : OutboundOk t ∧ ArbiterInv t := by
    unfold step at e
    split at e
    · rename_i c rest _
      exact ⟨outboundOk_exec (s := { s with pending := rest }) h e,
        ArbiterInv.exec (s := { s with pending := rest }) harbiter e⟩
    · cases e
      rw [tick_eq]
      exact ⟨h, harbiter⟩
  obtain ⟨hok, hchoice⟩ := hnext
  obtain ⟨hnotice', hattn'⟩ := (outboundOk_iff t).mp hok
  exact ⟨hnotice', hchoice, hattn'⟩

end Sys2Proof.Machine
end

section
/-! The step by the queue of waiting commands (log 2). -/

namespace Sys2Proof.Machine

section TheFrontOfTheQueue

variable {s : State} {c : Instr} {rest : List Instr}

theorem step_of_pending_cons (h : s.pending = c :: rest) : step s = exec c { s with pending := rest } := by
  simp only [step, h]

theorem step_of_pending_nil (h : s.pending = []) : step s = .next (tick s) := by
  simp only [step, h]

end TheFrontOfTheQueue

/-- Settles O1: the step by whether a command waits. -/
theorem stepRunsTheFrontCommand : Obligations.StepRunsTheFrontCommand :=
  ⟨fun _ _ _ => step_of_pending_cons, fun _ => step_of_pending_nil⟩

end Sys2Proof.Machine
end
